-- ==== Sys2Proof/Word.lean ====
section
/-! DEFINITION. The two word types of the block: the octet, unit of all storage and transfer (20_memory R24), and the
32-bit value of the FCS engine (41_fcs_engine R69). -/

namespace Sys2Proof

/-- One octet, 8 bits, numbered from bit 0, the least significant (00_scope R146). -/
abbrev Octet := BitVec 8

/-- One 32-bit value of the FCS engine (41_fcs_engine R69, R70). -/
abbrev Word32 := BitVec 32

end Sys2Proof
end

