-- ==== Sys2Proof/Config.lean ====
section
/-! DEFINITION. The constants the source fixes (00_scope R6), the parameters a model takes as configuration fields
(00_scope R7, 92_eei_decisions), and the one free value, the frame-type bits of the unnumbered-information frame. -/

namespace Sys2Proof

/-- `FLAG`, the frame delimiter (00_scope R6). -/
@[simp] abbrev FLAG : Octet := 0x7E#8

/-- `ESCAPE`, the escape marker (00_scope R6). -/
@[simp] abbrev ESCAPE : Octet := 0x7D#8

/-- `ESC_XOR`, the mask of the escape transform (00_scope R6). -/
@[simp] abbrev ESC_XOR : Octet := 0x20#8

/-- `ESCAPED_ESCAPE`, the valid escaped value that stands for `ESCAPE` (00_scope R6). -/
@[simp] abbrev ESCAPED_ESCAPE : Octet := 0x5D#8

/-- `ESCAPED_FLAG`, the valid escaped value that stands for `FLAG` (00_scope R6). -/
@[simp] abbrev ESCAPED_FLAG : Octet := 0x5E#8

/-- `FCS_LEN`, in octets (00_scope R6). -/
@[simp] abbrev FCS_LEN : Nat := 4

/-- `CTRL_LEN`, in octets (00_scope R6). -/
@[simp] abbrev CTRL_LEN : Nat := 1

/-- The frame-type variants (42_control_field R80): the one the source requires, and the categories of the extension point,
which it leaves open. -/
inductive FrameType where
  | unnumberedInformation
  | extension (category : Nat)
  deriving DecidableEq, Repr

/-- The parameters of 00_scope R7 that a claim may name, with the frame-type map of 93_implementation_defined I1. The hardware's own values are `Machine.hardware`; a rule that
holds for any value of a field is stated for every `Config`. -/
structure Config where
  /-- `ADDR_LEN`: octets of the address field on the wire. -/
  addrLen : Nat
  /-- `CRC32`: the 32-bit checksum function. -/
  crc32 : List Octet → Word32
  /-- `ACC_CAP`: capacity of a decoder accumulator in octets, `none` for unbounded. -/
  accCap : Option Nat
  /-- `PAYLOAD_MAX`: the longest payload `ENCODE` accepts, `none` for unbounded. -/
  payloadMax : Option Nat
  /-- The map from frame-type variants to `frame_type_bits` (42_control_field R80; 93_implementation_defined I1; log 8). The
  first entry of a variant counts; a variant without an entry is not defined. -/
  frameTypes : List (FrameType × Octet)

/-- `MIN_FRAME = ADDR_LEN + CTRL_LEN + FCS_LEN` (00_scope R8). -/
def Config.minFrame (cfg : Config) : Nat := cfg.addrLen + CTRL_LEN + FCS_LEN

/-- FREE VALUE (log 8): the octet-wide pattern `frame_type_bits` of the unnumbered-information frame, which no source
prints (42_control_field R78, decision D15). It has no body, so nothing can be proved of its value. -/
opaque Config.uiFrameTypeBits : Octet

/-- `N_DECODERS` as it stands at reset (00_scope R7: chosen by the host). DESIGN CHOICE (log 4): one instance, and
`NEWDECODER` creates the others. -/
def Config.decodersAtReset : Nat := 1

end Sys2Proof
end

