-- ==== Sys2Proof/Syntax.lean ====
section
/-! DEFINITION. The operations and dispatch rows of the block as syntax: `Instr` has one constructor for each of the 34
rows of spec/opcode_table.json. With it stand the operand types, and the requests by which the host presents an octet or
invokes an operation (30_encoding R55 to R57). -/

namespace Sys2Proof

/-- The state of a decoder instance: the tagged variant of 10_state R12. The constructor is the state tag (R10), the list
is the accumulator (R11), first received octet first; in `searching` there is no accumulator. -/
inductive DecoderState where
  | searching
  | inFrame (acc : List Octet)
  | escapePending (acc : List Octet)
  deriving DecidableEq, Repr

/-- The decoder state that `STEP` and `FEED` take: the state a numbered instance holds (10_state R20), which the operation
then replaces, or a state value the caller passes and receives back (10_state R12, R22). Log 21. -/
inductive StateOperand where
  | held (d : Nat)
  | value (st : DecoderState)
  deriving DecidableEq, Repr

/-- The operand of `CTRL.BUILD` (42_control_field R78): a frame-type variant (R80), whose bits the configuration gives, or
an octet-wide pattern given as such. Log 8. -/
inductive FrameTypeSelector where
  | named (t : FrameType)
  | pattern (bits : Octet)
  deriving DecidableEq, Repr

/-- The format of `ESC.DEC` used alone: `UX.PLAIN` or `UX.ESCAPED` (30_encoding R55). -/
inductive UxFormat where
  | plain
  | escaped
  deriving DecidableEq, Repr

/-- The instructions of the block: the dispatch rows and the operations of spec/opcode_table.json. `d` numbers the decoder
instance whose received octet selects the row; a row that fixes its octet carries no octet operand. -/
inductive Instr where
  /-- `RX.S.FLAG`, 44_frame_decoder R90. -/
  | rxSFlag (d : Nat)
  /-- `RX.S.OTHER`, R91. -/
  | rxSOther (d : Nat) (b : Octet)
  /-- `RX.F.FLAG.EMPTY`, R92. -/
  | rxFFlagEmpty (d : Nat)
  /-- `RX.F.FLAG.END`, R93. -/
  | rxFFlagEnd (d : Nat)
  /-- `RX.F.ESCAPE`, R94. -/
  | rxFEscape (d : Nat)
  /-- `RX.F.LITERAL`, R95. -/
  | rxFLiteral (d : Nat) (b : Octet)
  /-- `RX.E.ESCAPED_5D`, R96. -/
  | rxEEscaped5D (d : Nat)
  /-- `RX.E.ESCAPED_5E`, R96. -/
  | rxEEscaped5E (d : Nat)
  /-- `RX.E.FLAG`, R97. -/
  | rxEFlag (d : Nat)
  /-- `RX.E.OTHER`, R98. -/
  | rxEOther (d : Nat) (b : Octet)
  /-- `TX.FLAG`, 40_byte_escaper R60. -/
  | txFlag
  /-- `TX.ESCAPE`, R61. -/
  | txEscape
  /-- `TX.LITERAL`, R62. -/
  | txLiteral (b : Octet)
  /-- `UX.P.ESCAPE`, R65. -/
  | uxPEscape
  /-- `UX.P.COPY`, R65. -/
  | uxPCopy (b : Octet)
  /-- `UX.E.ESCAPED_5D`, R65. -/
  | uxEEscaped5D
  /-- `UX.E.ESCAPED_5E`, R65. -/
  | uxEEscaped5E
  /-- `UX.E.BAD`, R66. -/
  | uxEBad (b : Octet)
  /-- `UX.E.END`, R66. -/
  | uxEEnd
  /-- `ESCV b`, R58. -/
  | escv (b : Octet)
  /-- `ESC.ENC s`, R63. -/
  | escEnc (s : List Octet)
  /-- `ESC.DEC s`, R65, R66. -/
  | escDec (s : List Octet)
  /-- `CRC32 d`, 41_fcs_engine R69. -/
  | crc32 (data : List Octet)
  /-- `CRC32.UPDATE c, b`, R70. -/
  | crc32Update (c : Word32) (b : Octet)
  /-- `FCS.GEN d`, R71. -/
  | fcsGen (data : List Octet)
  /-- `FCS.CHK d, f`, R72: `f` is exactly the four octets `f0` to `f3`. -/
  | fcsChk (data : List Octet) (f0 f1 f2 f3 : Octet)
  /-- `CTRL.BUILD t`, 42_control_field R78. -/
  | ctrlBuild (t : FrameTypeSelector)
  /-- `ENCODE a, c, p`, 43_frame_encoder R81, R82. -/
  | encodeFrame (a c : Octet) (p : List Octet)
  /-- `STEP s, b`, 44_frame_decoder R89. -/
  | stepOctet (o : StateOperand) (b : Octet)
  /-- `VALIDATE acc`, R99 to R102: `acc` is the non-empty sequence `first` then `rest`. -/
  | validate (first : Octet) (rest : List Octet)
  /-- `FEED s, bytes`, R103. -/
  | feed (o : StateOperand) (bytes : List Octet)
  /-- `RESET` of instance `d`, 70_reset_and_hazards R131. -/
  | resetDecoder (d : Nat)
  /-- `DECODE w`, 44_frame_decoder R104. -/
  | decodeStream (w : List Octet)
  /-- `NEWDECODER`, 70_reset_and_hazards R135. -/
  | newDecoder
  deriving DecidableEq, Repr

/-- Where the host presents one octet: the received stream of a decoder instance, the escaper's encode direction, or the
escaper's decode direction used alone (30_encoding R55). -/
inductive Port where
  | rx (d : Nat)
  | tx
  | ux
  deriving DecidableEq, Repr

/-- The operations of 30_encoding R56 as the host invokes them. They have no binary encoding; an operation is selected by
the interface used (R57). -/
inductive Operation where
  | escv (b : Octet)
  | escEnc (s : List Octet)
  | escDec (s : List Octet)
  | crc32 (data : List Octet)
  | crc32Update (c : Word32) (b : Octet)
  | fcsGen (data : List Octet)
  | fcsChk (data : List Octet) (f0 f1 f2 f3 : Octet)
  | ctrlBuild (t : FrameTypeSelector)
  | encodeFrame (a c : Octet) (p : List Octet)
  | stepOctet (o : StateOperand) (b : Octet)
  | validate (first : Octet) (rest : List Octet)
  | feed (o : StateOperand) (bytes : List Octet)
  | resetDecoder (d : Nat)
  | decodeStream (w : List Octet)
  | newDecoder
  deriving DecidableEq, Repr

/-- What the host presents to the block (log 1): one octet at a port, the end of the finite input of an `ESC.DEC` presented
octet by octet, or one operation with its operands. -/
inductive Request where
  | octet (p : Port) (b : Octet)
  | endOfInput
  | call (o : Operation)
  deriving DecidableEq, Repr

end Sys2Proof
end

