-- ==== Sys2Proof/WellFormed.lean ====
section
/-! DEFINITION. Which terms of `Instr` are instructions: a catch-all row carries no octet that an earlier row of its format
matches (30_encoding R55; 44_frame_decoder R91, R95, R98; 40_byte_escaper R62, R65, R66). Every other operand restriction
of the spec is in the operand's type. -/

namespace Sys2Proof

/-- One case for each row. The rows without a condition here admit every value of their operands (30_encoding R47). -/
def Instr.wellFormed : Instr → Bool
  | .rxSFlag _ => true
  | .rxSOther _ b => b != FLAG
  | .rxFFlagEmpty _ => true
  | .rxFFlagEnd _ => true
  | .rxFEscape _ => true
  | .rxFLiteral _ b => b != FLAG && b != ESCAPE
  | .rxEEscaped5D _ => true
  | .rxEEscaped5E _ => true
  | .rxEFlag _ => true
  | .rxEOther _ b => b != ESCAPED_ESCAPE && b != ESCAPED_FLAG && b != FLAG
  | .txFlag => true
  | .txEscape => true
  | .txLiteral b => b != FLAG && b != ESCAPE
  | .uxPEscape => true
  | .uxPCopy b => b != ESCAPE
  | .uxEEscaped5D => true
  | .uxEEscaped5E => true
  | .uxEBad b => b != ESCAPED_ESCAPE && b != ESCAPED_FLAG
  | .uxEEnd => true
  | .escv _ => true
  | .escEnc _ => true
  | .escDec _ => true
  | .crc32 _ => true
  | .crc32Update _ _ => true
  | .fcsGen _ => true
  | .fcsChk _ _ _ _ _ => true
  | .ctrlBuild _ => true
  | .encodeFrame _ _ _ => true
  | .stepOctet _ _ => true
  | .validate _ _ => true
  | .feed _ _ => true
  | .resetDecoder _ => true
  | .decodeStream _ => true
  | .newDecoder => true

end Sys2Proof
end

