-- ==== Sys2Proof/Decode.lean ====
section
/-! DEFINITION. State-dependent decoding (30_encoding R52, R55): the dispatch tables as data, the decoder that reads an
octet under a format, the decoder of host requests, and the encoder. -/

namespace Sys2Proof

/-- The formats of the dispatch tables (30_encoding R55). -/
inductive Format where
  | rxSearching
  | rxInFrame
  | rxEscapePending
  | tx
  | uxPlain
  | uxEscaped
  deriving DecidableEq, Repr

/-- The extra condition of a row on the accumulator (30_encoding R55, rows `RX.F.FLAG.EMPTY` and `RX.F.FLAG.END`). -/
inductive AccCondition where
  | any
  | empty
  | nonEmpty
  deriving DecidableEq, Repr

/-- Whether the condition holds of an accumulator of length `accLen`. -/
def AccCondition.holds : AccCondition → Nat → Bool
  | .any, _ => true
  | .empty, accLen => accLen == 0
  | .nonEmpty, accLen => accLen != 0

/-- One row of a dispatch table: the octets `b` with `(b AND mask) = value`, under a format and a condition. -/
structure DispatchRow where
  mnemonic : String
  format : Format
  value : Octet
  mask : Octet
  condition : AccCondition
  make : Nat → Octet → Instr

/-- Whether the row applies (30_encoding R55). -/
def DispatchRow.selects (f : Format) (accLen : Nat) (b : Octet) (r : DispatchRow) : Bool :=
  decide (r.format = f ∧ b &&& r.mask = r.value) && r.condition.holds accLen

/-- Formats `RX.SEARCHING`, `RX.IN_FRAME` and `RX.ESCAPE_PENDING`, in try order (30_encoding R55). -/
def rxTable : List DispatchRow := [
  ⟨"RX.S.FLAG", .rxSearching, 0x7E#8, 0xFF#8, .any, fun d _ => .rxSFlag d⟩,
  ⟨"RX.S.OTHER", .rxSearching, 0x00#8, 0x00#8, .any, fun d b => .rxSOther d b⟩,
  ⟨"RX.F.FLAG.EMPTY", .rxInFrame, 0x7E#8, 0xFF#8, .empty, fun d _ => .rxFFlagEmpty d⟩,
  ⟨"RX.F.FLAG.END", .rxInFrame, 0x7E#8, 0xFF#8, .nonEmpty, fun d _ => .rxFFlagEnd d⟩,
  ⟨"RX.F.ESCAPE", .rxInFrame, 0x7D#8, 0xFF#8, .any, fun d _ => .rxFEscape d⟩,
  ⟨"RX.F.LITERAL", .rxInFrame, 0x00#8, 0x00#8, .any, fun d b => .rxFLiteral d b⟩,
  ⟨"RX.E.ESCAPED_5D", .rxEscapePending, 0x5D#8, 0xFF#8, .any, fun d _ => .rxEEscaped5D d⟩,
  ⟨"RX.E.ESCAPED_5E", .rxEscapePending, 0x5E#8, 0xFF#8, .any, fun d _ => .rxEEscaped5E d⟩,
  ⟨"RX.E.FLAG", .rxEscapePending, 0x7E#8, 0xFF#8, .any, fun d _ => .rxEFlag d⟩,
  ⟨"RX.E.OTHER", .rxEscapePending, 0x00#8, 0x00#8, .any, fun d b => .rxEOther d b⟩]

/-- Format `TX`, in try order. -/
def txTable : List DispatchRow := [
  ⟨"TX.FLAG", .tx, 0x7E#8, 0xFF#8, .any, fun _ _ => .txFlag⟩,
  ⟨"TX.ESCAPE", .tx, 0x7D#8, 0xFF#8, .any, fun _ _ => .txEscape⟩,
  ⟨"TX.LITERAL", .tx, 0x00#8, 0x00#8, .any, fun _ b => .txLiteral b⟩]

/-- Formats `UX.PLAIN` and `UX.ESCAPED`, in try order. The row `UX.E.END` matches no octet: it is read where the input
ends (`decodeOctets`). -/
def uxTable : List DispatchRow := [
  ⟨"UX.P.ESCAPE", .uxPlain, 0x7D#8, 0xFF#8, .any, fun _ _ => .uxPEscape⟩,
  ⟨"UX.P.COPY", .uxPlain, 0x00#8, 0x00#8, .any, fun _ b => .uxPCopy b⟩,
  ⟨"UX.E.ESCAPED_5D", .uxEscaped, 0x5D#8, 0xFF#8, .any, fun _ _ => .uxEEscaped5D⟩,
  ⟨"UX.E.ESCAPED_5E", .uxEscaped, 0x5E#8, 0xFF#8, .any, fun _ _ => .uxEEscaped5E⟩,
  ⟨"UX.E.BAD", .uxEscaped, 0x00#8, 0x00#8, .any, fun _ b => .uxEBad b⟩]

/-- The dispatch rows of 30_encoding R55 that match an octet. -/
def dispatchTable : List DispatchRow := rxTable ++ txTable ++ uxTable

/-- The row an octet selects: the first that applies (30_encoding R55). `d` is the decoder instance, for the RX rows. -/
def decodeOctet (f : Format) (accLen d : Nat) (b : Octet) : Option Instr :=
  (dispatchTable.find? (DispatchRow.selects f accLen b)).map fun r => r.make d b

/-- Why no instruction is read. -/
inductive DecodeReject where
  /-- The host named a decoder instance that does not exist (10_state R20). -/
  | noSuchDecoder
  /-- No octet is there and the format is not `UX.ESCAPED`, so no row applies (20_memory R25; 40_byte_escaper R65). -/
  | noOctet
  /-- No row matches. The tables are total, so this never happens (30_encoding R55). -/
  | noRow
  deriving DecidableEq, Repr

/-- The instruction at the front of a sequence of octets, and the octets after it. -/
def decodeOctets (f : Format) (accLen d : Nat) : List Octet → Except DecodeReject (Instr × List Octet)
  | [] => if f = .uxEscaped then .ok (.uxEEnd, []) else .error .noOctet
  | b :: rest =>
    match decodeOctet f accLen d b with
    | some i => .ok (i, rest)
    | none => .error .noRow

/-- What decoding depends on: the state of each decoder instance and the format of `ESC.DEC` (30_encoding R52). -/
structure View where
  decoders : List DecoderState
  ux : UxFormat
  deriving DecidableEq, Repr

/-- The dispatch format of a decoder state: its tag (30_encoding R52). -/
def DecoderState.format : DecoderState → Format
  | .searching => .rxSearching
  | .inFrame _ => .rxInFrame
  | .escapePending _ => .rxEscapePending

/-- `AccLen()` (20_memory R28). In `searching` there is no accumulator, and no row asks. -/
def DecoderState.accLen : DecoderState → Nat
  | .searching => 0
  | .inFrame acc => acc.length
  | .escapePending acc => acc.length

/-- The dispatch format of `ESC.DEC` used alone. -/
def UxFormat.format : UxFormat → Format
  | .plain => .uxPlain
  | .escaped => .uxEscaped

/-- The instruction an octet at a port selects. -/
def decodePort (v : View) (p : Port) (octets : List Octet) : Except DecodeReject (Instr × List Octet) :=
  match p with
  | .rx d =>
    match v.decoders[d]? with
    | none => .error .noSuchDecoder
    | some st => decodeOctets st.format st.accLen d octets
  | .tx => decodeOctets .tx 0 0 octets
  | .ux => decodeOctets v.ux.format 0 0 octets

/-- The instruction an operation is (30_encoding R56). -/
def Operation.toInstr : Operation → Instr
  | .escv b => .escv b
  | .escEnc s => .escEnc s
  | .escDec s => .escDec s
  | .crc32 data => .crc32 data
  | .crc32Update c b => .crc32Update c b
  | .fcsGen data => .fcsGen data
  | .fcsChk data f0 f1 f2 f3 => .fcsChk data f0 f1 f2 f3
  | .ctrlBuild t => .ctrlBuild t
  | .encodeFrame a c p => .encodeFrame a c p
  | .stepOctet o b => .stepOctet o b
  | .validate first rest => .validate first rest
  | .feed o bytes => .feed o bytes
  | .resetDecoder d => .resetDecoder d
  | .decodeStream w => .decodeStream w
  | .newDecoder => .newDecoder

/-- The decoder: total on every request under every view. -/
def decode (v : View) : Request → Except DecodeReject Instr
  | .octet p b => (decodePort v p [b]).map Prod.fst
  | .endOfInput => (decodePort v .ux []).map Prod.fst
  | .call o => .ok o.toInstr

/-- The encoder: the request that stands for an instruction, written from the match column of 30_encoding R55 and, for
the operations, from R56 and R57. -/
def encode : Instr → Request
  | .rxSFlag d => .octet (.rx d) 0x7E#8
  | .rxSOther d b => .octet (.rx d) b
  | .rxFFlagEmpty d => .octet (.rx d) 0x7E#8
  | .rxFFlagEnd d => .octet (.rx d) 0x7E#8
  | .rxFEscape d => .octet (.rx d) 0x7D#8
  | .rxFLiteral d b => .octet (.rx d) b
  | .rxEEscaped5D d => .octet (.rx d) 0x5D#8
  | .rxEEscaped5E d => .octet (.rx d) 0x5E#8
  | .rxEFlag d => .octet (.rx d) 0x7E#8
  | .rxEOther d b => .octet (.rx d) b
  | .txFlag => .octet .tx 0x7E#8
  | .txEscape => .octet .tx 0x7D#8
  | .txLiteral b => .octet .tx b
  | .uxPEscape => .octet .ux 0x7D#8
  | .uxPCopy b => .octet .ux b
  | .uxEEscaped5D => .octet .ux 0x5D#8
  | .uxEEscaped5E => .octet .ux 0x5E#8
  | .uxEBad b => .octet .ux b
  | .uxEEnd => .endOfInput
  | .escv b => .call (.escv b)
  | .escEnc s => .call (.escEnc s)
  | .escDec s => .call (.escDec s)
  | .crc32 data => .call (.crc32 data)
  | .crc32Update c b => .call (.crc32Update c b)
  | .fcsGen data => .call (.fcsGen data)
  | .fcsChk data f0 f1 f2 f3 => .call (.fcsChk data f0 f1 f2 f3)
  | .ctrlBuild t => .call (.ctrlBuild t)
  | .encodeFrame a c p => .call (.encodeFrame a c p)
  | .stepOctet o b => .call (.stepOctet o b)
  | .validate first rest => .call (.validate first rest)
  | .feed o bytes => .call (.feed o bytes)
  | .resetDecoder d => .call (.resetDecoder d)
  | .decodeStream w => .call (.decodeStream w)
  | .newDecoder => .call .newDecoder

/-- Whether the view puts the row's own format (and accumulator condition) in force; an operation needs none. -/
def Instr.inForce (v : View) : Instr → Bool
  | .rxSFlag d => v.decoders[d]? == some .searching
  | .rxSOther d _ => v.decoders[d]? == some .searching
  | .rxFFlagEmpty d => v.decoders[d]? == some (.inFrame [])
  | .rxFFlagEnd d =>
    match v.decoders[d]? with
    | some (.inFrame (_ :: _)) => true
    | _ => false
  | .rxFEscape d => v.decoders[d]?.map DecoderState.format == some .rxInFrame
  | .rxFLiteral d _ => v.decoders[d]?.map DecoderState.format == some .rxInFrame
  | .rxEEscaped5D d => v.decoders[d]?.map DecoderState.format == some .rxEscapePending
  | .rxEEscaped5E d => v.decoders[d]?.map DecoderState.format == some .rxEscapePending
  | .rxEFlag d => v.decoders[d]?.map DecoderState.format == some .rxEscapePending
  | .rxEOther d _ => v.decoders[d]?.map DecoderState.format == some .rxEscapePending
  | .txFlag => true
  | .txEscape => true
  | .txLiteral _ => true
  | .uxPEscape => v.ux == .plain
  | .uxPCopy _ => v.ux == .plain
  | .uxEEscaped5D => v.ux == .escaped
  | .uxEEscaped5E => v.ux == .escaped
  | .uxEBad _ => v.ux == .escaped
  | .uxEEnd => v.ux == .escaped
  | .escv _ => true
  | .escEnc _ => true
  | .escDec _ => true
  | .crc32 _ => true
  | .crc32Update _ _ => true
  | .fcsGen _ => true
  | .fcsChk _ _ _ _ _ => true
  | .ctrlBuild _ => true
  | .encodeFrame _ _ _ => true
  | .stepOctet _ _ => true
  | .validate _ _ => true
  | .feed _ _ => true
  | .resetDecoder _ => true
  | .decodeStream _ => true
  | .newDecoder => true

/-- The octet that the `nbits` low bits of `w` lay out first; `nbits = 0` lays out none. Every row that matches an octet is
one octet long. -/
def tableOctets (nbits w : Nat) : List Octet :=
  if nbits = 0 then [] else [BitVec.ofNat 8 (w % 2 ^ nbits)]

/-- The instruction the decoder reads from a table word. An octet selects one row in EACH format (30_encoding R52), and a
word names no format: the one in force for a received octet after reset is `RX.SEARCHING` (log 2). -/
def decodeTableWord (nbits w : Nat) : Option Instr :=
  match decodePort ⟨[.searching], .plain⟩ (.rx 0) (tableOctets nbits w) with
  | .ok (i, _) => some i
  | .error _ => none

end Sys2Proof
end

