-- ==== Sys2Proof/Machine/State.lean ====
section
/-! DEFINITION. The state of the block: the decoder instances, the streams, the transient of an `ESC.DEC` presented octet
by octet, the values returned and the host's requests; the reasons a step can stop; the reset state. -/

namespace Sys2Proof.Machine

/-- The three error kinds (60_exceptions R112 to R115). -/
inductive RejectKind where
  | malformedEscape
  | frameTooShort
  | checksumMismatch
  deriving DecidableEq, Repr

/-- What a validated frame carries: address, control and payload (60_exceptions R116). The address is the `ADDR_LEN` octets
of the wire in order (20_memory R32), one octet in this hardware. -/
structure Frame where
  address : List Octet
  control : Octet
  payload : List Octet
  deriving DecidableEq, Repr

/-- A decode result (00_scope R146; 60_exceptions R112). A rejection is its kind alone (R117). -/
inductive Result where
  | ok (f : Frame)
  | rej (k : RejectKind)
  deriving DecidableEq, Repr

/-- The outcome of `FCS.CHK` (41_fcs_engine R72). -/
inductive FcsVerdict where
  | isMatch
  | mismatch
  deriving DecidableEq, Repr

/-- The value an operation returns to its caller: the result column of 30_encoding R56 (log 7). -/
inductive Reply where
  | octet (b : Octet)
  | octets (s : List Octet)
  | malformedEscape
  | word (c : Word32)
  | verdict (v : FcsVerdict)
  | result (r : Result)
  | results (rs : List Result)
  | stepped (st : DecoderState) (rs : List Result)
  | decoderState (st : DecoderState)
  | instanceNumber (d : Nat)
  deriving DecidableEq, Repr

/-- One decoder instance: its state (tag and accumulator, 10_state R9) and its result stream (20_memory R27), first result
first. -/
structure Decoder where
  state : DecoderState
  results : List Result
  deriving DecidableEq, Repr

/-- The transient of `ESC.DEC` presented octet by octet: whether the previous octet was `ESCAPE`, and the output so far
(40_byte_escaper R65; 10_state R18). MODEL'S OWN field (log 6); what follows an error in the same input is log 24. -/
structure UxRun where
  format : UxFormat
  out : List Octet
  deriving DecidableEq, Repr

/-- The whole state. `decoders` and `tx` are the spec's (10_state R9, R20; 20_memory R23); `ux`, `replies` and `requests`
are the model's own (log 6, 7, 1). The received stream of an instance is a view of `requests` (`rxStream`). -/
structure State where
  decoders : List Decoder
  tx : List Octet
  ux : UxRun
  replies : List Reply
  requests : List Request
  deriving DecidableEq, Repr

/-- The reasons the machine stops with a fault: none exists. The decoder never faults, and no error is fatal to the stream
(44_frame_decoder R105, 60_exceptions R124). -/
inductive Fault where
  deriving DecidableEq, Repr

/-- The reasons the model gives no next state. None is an error of the hardware (60_exceptions R124). -/
inductive Refusal where
  /-- An instruction without a meaning, by its mnemonic in spec/opcode_table.json. Raised by no arm of `exec`. Safe. -/
  | notModelled (mnemonic : String)
  /-- An append to a full accumulator of finite capacity (44_frame_decoder R111, decision D6). Raised by `accAppend`; never
  for the hardware's own unbounded `ACC_CAP`. Safe. -/
  | accumulatorOverflow
  /-- The host named a decoder instance that does not exist (log 9). Raised by `step`, the RX rows, `STEP`, `FEED` and
  `RESET`. Safe. -/
  | noSuchDecoder
  /-- A dispatch row run where its format, match or condition does not select it (log 10). Raised by the RX, TX and UX rows;
  never by a step, which runs the row its octet selects. Safe. -/
  | rowNotSelected
  /-- A frame-type selector the configuration does not define (93_implementation_defined I1: it must refuse; log 8). Raised
  by `CTRL.BUILD`. Safe. -/
  | undefinedFrameType
  /-- A payload longer than a finite `PAYLOAD_MAX` (00_scope R7, decision D16; log 11). Raised by `ENCODE`; never for the
  hardware's own unbounded `PAYLOAD_MAX`. Safe. -/
  | payloadTooLong
  deriving DecidableEq, Repr

/-- A decoder instance after reset: `Searching`, no accumulator (10_state R21, 70_reset_and_hazards R132); no result yet
(log 5). -/
def Decoder.fresh : Decoder := ⟨.searching, []⟩

/-- `ESC.DEC` before its first octet (40_byte_escaper R65). -/
def UxRun.start : UxRun := ⟨.plain, []⟩

/-- The block right after reset: every instance in `Searching` (70_reset_and_hazards R132), nothing on any stream (log 5),
nothing requested or returned (log 1, 7). The number of instances is DESIGN CHOICE (log 4). -/
def State.reset : State where
  decoders := List.replicate Config.decodersAtReset Decoder.fresh
  tx := []
  ux := UxRun.start
  replies := []
  requests := []

end Sys2Proof.Machine
end

