-- ==== Sys2Proof/Machine/Ops.lean ====
section
/-! DEFINITION. The named operations over streams, accumulators and decoder instances (20_memory R23 to R28), and `raise`,
the one operation by which an error is delivered (00_scope R146, 60_exceptions R121). There is no return from an error to
model beside it: nothing is saved (60_exceptions R123). -/

namespace Sys2Proof.Machine

/-- What one instruction answers. -/
abbrev Answer := Host.Outcome State Fault Refusal

/-- What one transition rule gives: the next decoder state and the results of the step (44_frame_decoder R89), or the
refusal of R111. -/
abbrev Transition := Except Refusal (DecoderState × List Result)

/-- `TxPut` of each octet in order (20_memory R26). -/
def txPut (octets : List Octet) (s : State) : State :=
  { s with tx := s.tx ++ octets }

/-- Returns a value to the caller (log 7). -/
def giveReply (r : Reply) (s : State) : State :=
  { s with replies := s.replies ++ [r] }

/-- `AccClear()` (20_memory R28): the accumulator after it. -/
def accClear : List Octet := []

/-- `AccAppend(b)`: the new octet stands at the highest index (20_memory R28); an append to a full accumulator of finite
capacity is refused (R29, 44_frame_decoder R111; log 11). -/
def accAppend (cfg : Config) (acc : List Octet) (b : Octet) : Except Refusal (List Octet) :=
  match cfg.accCap with
  | none => .ok (acc ++ [b])
  | some cap => if cap ≤ acc.length then .error .accumulatorOverflow else .ok (acc ++ [b])

/-- `AccSlice(i, j)`, the octets of indices `i` up to but not including `j` (20_memory R28, 00_scope R146). -/
def accSlice (acc : List Octet) (i j : Nat) : List Octet :=
  (acc.drop i).take (j - i)

/-- `raise <Kind>`: one rejection, the accumulator discarded with the state it stood in, and the next state the rule names
(00_scope R146, 60_exceptions R121). -/
def raise (k : RejectKind) (next : DecoderState) : Transition :=
  .ok (next, [.rej k])

/-- Writes an instance's new state and appends the step's results to its stream (20_memory R27). Other instances are not
touched (10_state R20). -/
def putDecoder (d : Nat) (dec : Decoder) (st : DecoderState) (rs : List Result) (s : State) : State :=
  { s with decoders := s.decoders.set d ⟨st, dec.results ++ rs⟩ }

/-- Runs one transition rule on instance `d`; `rule` is `none` where the rule's row is not the one selected (log 10). -/
def runRow (d : Nat) (rule : DecoderState → Option Transition) (s : State) : Answer :=
  match s.decoders[d]? with
  | none => .refused .noSuchDecoder
  | some dec =>
    match rule dec.state with
    | none => .refused .rowNotSelected
    | some (.error e) => .refused e
    | some (.ok (st, rs)) => .next (putDecoder d dec st rs s)

/-- Runs one row of `ESC.DEC` used alone in the format it belongs to; `rule` gives the next transient and the value
returned, if the row returns one. -/
def runUx (format : UxFormat) (selected : Bool) (rule : UxRun → UxRun × Option Reply) (s : State) : Answer :=
  if s.ux.format = format ∧ selected = true then
    match rule s.ux with
    | (run, none) => .next { s with ux := run }
    | (run, some r) => .next (giveReply r { s with ux := run })
  else .refused .rowNotSelected

/-- Runs one row of the escaper's encode direction. -/
def runTx (selected : Bool) (octets : List Octet) (s : State) : Answer :=
  if selected = true then .next (txPut octets s) else .refused .rowNotSelected

/-- The end of the input of an `ESC.DEC` presented octet by octet, in format `UX.PLAIN`: the last line of 40_byte_escaper
R65, `return out`. The transient is gone afterwards (10_state R18). -/
def finishUx (s : State) : State :=
  giveReply (.octets s.ux.out) { s with ux := UxRun.start }

/-- What decoding depends on, read from the state. -/
def viewOf (s : State) : View :=
  ⟨s.decoders.map Decoder.state, s.ux.format⟩

/-- The octet a request presents to the received stream of instance `d`, if it is one. DESIGN CHOICE (log 23): the octets
that a pending `STEP` or `FEED` on the instance carries are operands of that call, and are not counted as octets of `rx`. -/
def rxOctet (d : Nat) : Request → Option Octet
  | .octet (.rx e) b => if e = d then some b else none
  | .octet .tx _ => none
  | .octet .ux _ => none
  | .endOfInput => none
  | .call _ => none

/-- `rx` of instance `d`: the octets supplied at its port and not yet consumed, in order (20_memory R23, R25; log 23). -/
def rxStream (d : Nat) (s : State) : List Octet :=
  s.requests.filterMap (rxOctet d)

end Sys2Proof.Machine
end

