-- ==== Sys2Proof/Machine/Operands.lean ====
section
/-! DEFINITION. The operand forms: the decoder state of `STEP` and `FEED`, the frame-type selector of `CTRL.BUILD`, and the
fields of a content as the accumulator holds it (30_encoding R43, R47, R48). -/

namespace Sys2Proof.Machine

/-- The decoder state an operand stands for; `none` for an instance that does not exist (log 9). -/
def readOperand (o : StateOperand) (s : State) : Option DecoderState :=
  match o with
  | .held d => s.decoders[d]?.map Decoder.state
  | .value st => some st

/-- Where the next state and the results go: a numbered instance holds them (20_memory R27); a state value the caller
passed is the caller's own, and comes back with the reply (10_state R22; log 21). -/
def writeOperand (o : StateOperand) (st : DecoderState) (rs : List Result) (s : State) : State :=
  match o with
  | .held d =>
    match s.decoders[d]? with
    | none => s
    | some dec => putDecoder d dec st rs s
  | .value _ => s

/-- Runs a function of decoder states on an operand and returns the new state and the results (44_frame_decoder R89, R103). -/
def runOperand (o : StateOperand) (f : DecoderState → Transition) (s : State) : Answer :=
  match readOperand o s with
  | none => .refused .noSuchDecoder
  | some st =>
    match f st with
    | .error e => .refused e
    | .ok (st', rs) => .next (giveReply (.stepped st' rs) (writeOperand o st' rs s))

/-- `frame_type_bits` of a selector (42_control_field R78). A variant the configuration does not define has none
(93_implementation_defined I1). DESIGN CHOICE (log 8): a pattern given as such is taken whatever its two low bits are, as is
any octet the configuration holds; R78 says that the source does not say whether they may be set. -/
def frameTypeBits (cfg : Config) : FrameTypeSelector → Option Octet
  | .named t => cfg.frameTypes.lookup t
  | .pattern bits => some bits

/-- `address`: the first `ADDR_LEN` octets (44_frame_decoder R100). -/
def addressField (cfg : Config) (acc : List Octet) : List Octet :=
  accSlice acc 0 cfg.addrLen

/-- `control`: the one octet after the address. It exists whenever `len(acc) >= MIN_FRAME`, the only case in which it is
read (R100); the 0 is never read. -/
def controlField (cfg : Config) (acc : List Octet) : Octet :=
  (accSlice acc cfg.addrLen (cfg.addrLen + CTRL_LEN)).headD 0

/-- `payload`: whatever lies between the head and the FCS, possibly nothing. -/
def payloadField (cfg : Config) (acc : List Octet) : List Octet :=
  accSlice acc (cfg.addrLen + CTRL_LEN) (acc.length - FCS_LEN)

/-- `fcs`: the last four octets. -/
def fcsField (acc : List Octet) : List Octet :=
  accSlice acc (acc.length - FCS_LEN) acc.length

/-- `body = address ++ control ++ payload`, the data the checksum covers (41_fcs_engine R73; 30_encoding R47). -/
def bodyOf (address : List Octet) (control : Octet) (payload : List Octet) : List Octet :=
  address ++ [control] ++ payload

end Sys2Proof.Machine
end

