-- ==== Sys2Proof/Machine/Flags.lean ====
section
/-! DEFINITION. The block has no condition codes (10_state R16). What stands in their place: the escape-pending condition
(R13), the state tag with the numbers the spec gives it (R10), and the numbers of the result kinds (60_exceptions R112). -/

namespace Sys2Proof.Machine

/-- The state tag (10_state R10). -/
inductive Tag where
  | searching
  | inFrame
  | escapePending
  deriving DecidableEq, Repr

/-- The tag of a decoder state. -/
def tagOf : DecoderState → Tag
  | .searching => .searching
  | .inFrame _ => .inFrame
  | .escapePending _ => .escapePending

/-- The spec's own encoding of the tag in 2 bits (10_state R10, decision D10; log 16); 3 never occurs. -/
def tagCode : Tag → BitVec 2
  | .searching => 0
  | .inFrame => 1
  | .escapePending => 2

/-- The escape-pending flag: the condition `tag = ESCAPE_PENDING` (10_state R13). -/
def escapePendingFlag (st : DecoderState) : Bool :=
  tagOf st == .escapePending

/-- The code of a result's kind (60_exceptions R112, decision D8; log 16). -/
def resultCode : Result → Nat
  | .ok _ => 0
  | .rej .malformedEscape => 1
  | .rej .frameTooShort => 2
  | .rej .checksumMismatch => 3

end Sys2Proof.Machine
end

