-- ==== Sys2Proof/Machine/Fcs.lean ====
section
/-! DEFINITION. The FCS engine (41_fcs_engine), and the hardware's own configuration. -/

namespace Sys2Proof.Machine

/-- One of the eight repetitions of R70: a logical shift right by one, then the reflected polynomial if bit 0 was set. -/
def crcBit (c : Word32) : Word32 :=
  if c.getLsbD 0 then (c >>> 1) ^^^ 0xEDB88320#32 else c >>> 1

/-- `n` repetitions. -/
def crcBits : Nat → Word32 → Word32
  | 0, c => c
  | n + 1, c => crcBits n (crcBit c)

/-- `CRC32.UPDATE c, b` (R70): the octet enters at bits 7:0. -/
def crcUpdate (c : Word32) (b : Octet) : Word32 :=
  crcBits 8 (c ^^^ b.setWidth 32)

/-- CRC-32/ISO-HDLC (R69, decision D2; log 13). -/
def crc32IsoHdlc (data : List Octet) : Word32 :=
  data.foldl crcUpdate 0xFFFFFFFF#32 ^^^ 0xFFFFFFFF#32

/-- The parameter values of this hardware (00_scope R7): one address octet (D1; log 12), CRC-32/ISO-HDLC (D2; log 13),
unbounded accumulator and payload (D6, D16; log 11), and the one frame type the source requires, whose bits are the free
value (D15; log 8). -/
def hardware : Config where
  addrLen := 1
  crc32 := crc32IsoHdlc
  accCap := none
  payloadMax := none
  frameTypes := [(.unnumberedInformation, Config.uiFrameTypeBits)]

/-- The four octets of a 32-bit value, least significant first (20_memory R31). -/
def wordOctets (c : Word32) : List Octet :=
  [c.extractLsb' 0 8, c.extractLsb' 8 8, c.extractLsb' 16 8, c.extractLsb' 24 8]

/-- `FCS.GEN d` (R71). -/
def fcsGenerate (cfg : Config) (data : List Octet) : List Octet := wordOctets (cfg.crc32 data)

/-- `FCS.CHK d, f` (R72): all four octets must agree. -/
def fcsCheck (cfg : Config) (data f : List Octet) : FcsVerdict :=
  if fcsGenerate cfg data = f then .isMatch else .mismatch

/-- `CRC32 d` (R69). -/
def execCrc32 (data : List Octet) (s : State) : Answer := .next (giveReply (.word (hardware.crc32 data)) s)

/-- `CRC32.UPDATE c, b` (R70). -/
def execCrc32Update (c : Word32) (b : Octet) (s : State) : Answer := .next (giveReply (.word (crcUpdate c b)) s)

/-- `FCS.GEN d` (R71). -/
def execFcsGen (data : List Octet) (s : State) : Answer :=
  .next (giveReply (.octets (fcsGenerate hardware data)) s)

/-- `FCS.CHK d, f` (R72): the verdict is a return value and touches no decoder (60_exceptions R129). -/
def execFcsChk (data : List Octet) (f0 f1 f2 f3 : Octet) (s : State) : Answer :=
  .next (giveReply (.verdict (fcsCheck hardware data [f0, f1, f2, f3])) s)

end Sys2Proof.Machine
end

