-- ==== Sys2Proof/Machine/Control.lean ====
section
/-! DEFINITION. The control-field builder (42_control_field), the boundary operation `CTRL.BUILD`. -/

namespace Sys2Proof.Machine

/-- `0x03 OR frame_type_bits` (R78). -/
def controlOctet (bits : Octet) : Octet := 0x03#8 ||| bits

/-- `CTRL.BUILD` under a configuration (R78). A selector the configuration does not define is refused
(93_implementation_defined I1; log 8). -/
def runCtrlBuild (cfg : Config) (t : FrameTypeSelector) (s : State) : Answer :=
  match frameTypeBits cfg t with
  | some bits => .next (giveReply (.octet (controlOctet bits)) s)
  | none => .refused .undefinedFrameType

/-- `CTRL.BUILD t` (R78). -/
def execCtrlBuild (t : FrameTypeSelector) (s : State) : Answer := runCtrlBuild hardware t s

end Sys2Proof.Machine
end

