-- ==== Sys2Proof/Machine/Escaper.lean ====
section
/-! DEFINITION. The byte escaper (40_byte_escaper): the octet transform, both directions over sequences, and the rows of
the formats `TX`, `UX.PLAIN` and `UX.ESCAPED`. -/

namespace Sys2Proof.Machine

/-- `ESCV b = b XOR 0x20` (R58). -/
def escapeValue (b : Octet) : Octet := b ^^^ ESC_XOR

/-- The escape pair of a reserved octet (30_encoding R46): the two octets R60 and R61 put. -/
def escapePair (b : Octet) : List Octet := [ESCAPE, escapeValue b]

/-- What the encode direction emits for one raw octet (R60 to R62). -/
def escapeOctet (b : Octet) : List Octet :=
  if b = FLAG ∨ b = ESCAPE then escapePair b else [b]

/-- `ESC.ENC s` (R63): octet by octet, left to right, with no context. -/
def escapeEncode : List Octet → List Octet
  | [] => []
  | b :: rest => escapeOctet b ++ escapeEncode rest

/-- The two valid escaped values (R59 (d)). -/
def isEscapedValue (b : Octet) : Bool := b == ESCAPED_ESCAPE || b == ESCAPED_FLAG

/-- The loop of `ESC.DEC` (R65, R66): `none` is `MalformedEscape`, the error alone (decision D22; log 18). -/
def escapeDecodeFrom (format : UxFormat) (out : List Octet) : List Octet → Option (List Octet)
  | [] =>
    match format with
    | .plain => some out
    | .escaped => none
  | b :: rest =>
    match format with
    | .escaped => if isEscapedValue b then escapeDecodeFrom .plain (out ++ [escapeValue b]) rest else none
    | .plain => if b = ESCAPE then escapeDecodeFrom .escaped out rest else escapeDecodeFrom .plain (out ++ [b]) rest

/-- `ESC.DEC s` (R65, R66). -/
def escapeDecode (s : List Octet) : Option (List Octet) := escapeDecodeFrom .plain [] s

/-- The value `ESC.DEC` returns: the output, or `MalformedEscape` in its place (60_exceptions R129). -/
def escapeDecodeReply : Option (List Octet) → Reply
  | some out => .octets out
  | none => .malformedEscape

/-- `TX.FLAG` (R60): `TxPut(ESCAPE)`, `TxPut(ESCV(FLAG))`. -/
def execTxFlag (s : State) : Answer := runTx true (escapePair FLAG) s

/-- `TX.ESCAPE` (R61): `TxPut(ESCAPE)`, `TxPut(ESCV(ESCAPE))`. -/
def execTxEscape (s : State) : Answer := runTx true (escapePair ESCAPE) s

/-- `TX.LITERAL` (R62): `TxPut(b)`, for an octet that is not reserved. -/
def execTxLiteral (b : Octet) (s : State) : Answer := runTx (b != FLAG && b != ESCAPE) [b] s

/-- `UX.P.ESCAPE` (R65): nothing emitted, the next octet is read as escaped. -/
def execUxPEscape (s : State) : Answer :=
  runUx .plain true (fun run => (⟨.escaped, run.out⟩, none)) s

/-- `UX.P.COPY` (R65): the octet is emitted unchanged, a literal 0x7E included (decision D11; log 18). -/
def execUxPCopy (b : Octet) (s : State) : Answer :=
  runUx .plain (b != ESCAPE) (fun run => (⟨.plain, run.out ++ [b]⟩, none)) s

/-- `UX.E.ESCAPED_5D` (R65): emits 0x7D. -/
def execUxEEscaped5D (s : State) : Answer :=
  runUx .escaped true (fun run => (⟨.plain, run.out ++ [escapeValue ESCAPED_ESCAPE]⟩, none)) s

/-- `UX.E.ESCAPED_5E` (R65): emits 0x7E. -/
def execUxEEscaped5E (s : State) : Answer :=
  runUx .escaped true (fun run => (⟨.plain, run.out ++ [escapeValue ESCAPED_FLAG]⟩, none)) s

/-- `UX.E.BAD` (R66): `MalformedEscape` is returned alone and the operation is over. DESIGN CHOICE (log 24): octets presented
after it, and the end of the input, belong to a new `ESC.DEC`, which begins at its start. -/
def execUxEBad (b : Octet) (s : State) : Answer :=
  runUx .escaped (!isEscapedValue b) (fun _ => (UxRun.start, some .malformedEscape)) s

/-- `UX.E.END` (R66): the input ends right after `ESCAPE`. -/
def execUxEEnd (s : State) : Answer :=
  runUx .escaped true (fun _ => (UxRun.start, some .malformedEscape)) s

/-- `ESCV b` (R58). -/
def execEscv (b : Octet) (s : State) : Answer := .next (giveReply (.octet (escapeValue b)) s)

/-- `ESC.ENC s` (R63). -/
def execEscEnc (octets : List Octet) (s : State) : Answer := .next (giveReply (.octets (escapeEncode octets)) s)

/-- `ESC.DEC s` (R65, R66). -/
def execEscDec (octets : List Octet) (s : State) : Answer :=
  .next (giveReply (escapeDecodeReply (escapeDecode octets)) s)

end Sys2Proof.Machine
end

