-- ==== Sys2Proof/Machine/Encoder.lean ====
section
/-! DEFINITION. The frame encoder (43_frame_encoder). -/

namespace Sys2Proof.Machine

/-- `body ++ fcs` (R82 steps 1 and 2): the content of a frame. -/
def frameContent (cfg : Config) (a : List Octet) (c : Octet) (p : List Octet) : List Octet :=
  bodyOf a c p ++ fcsGenerate cfg (bodyOf a c p)

/-- The wire frame (R82 steps 3 and 4; 30_encoding R42). -/
def wireFrame (cfg : Config) (a : List Octet) (c : Octet) (p : List Octet) : List Octet :=
  [FLAG] ++ escapeEncode (frameContent cfg a c p) ++ [FLAG]

/-- Whether `ENCODE` accepts a payload of this length (00_scope R7, `PAYLOAD_MAX`). -/
def payloadFits (cfg : Config) (p : List Octet) : Bool :=
  match cfg.payloadMax with
  | none => true
  | some m => p.length ≤ m

/-- `ENCODE` under a configuration (R82): the frame is put on `tx` as one run and returned. -/
def runEncode (cfg : Config) (a : List Octet) (c : Octet) (p : List Octet) (s : State) : Answer :=
  if payloadFits cfg p then
    .next (giveReply (.octets (wireFrame cfg a c p)) (txPut (wireFrame cfg a c p) s))
  else .refused .payloadTooLong

/-- `ENCODE a, c, p` (R81, R82). -/
def execEncodeFrame (a c : Octet) (p : List Octet) (s : State) : Answer := runEncode hardware [a] c p s

end Sys2Proof.Machine
end

