-- ==== Sys2Proof/Machine/Decoder.lean ====
section
/-! DEFINITION. The frame decoder (44_frame_decoder): validation, the nine transition rules, `STEP`, `FEED` and `DECODE`;
`RESET` and `NEWDECODER` (70_reset_and_hazards). -/

namespace Sys2Proof.Machine

/-- `VALIDATE(acc)` (R99 to R102): length first, then the split, then the checksum. -/
def validateContent (cfg : Config) (acc : List Octet) : Result :=
  if acc.length < cfg.minFrame then .rej .frameTooShort
  else
    match fcsCheck cfg (bodyOf (addressField cfg acc) (controlField cfg acc) (payloadField cfg acc)) (fcsField acc) with
    | .isMatch => .ok ⟨addressField cfg acc, controlField cfg acc, payloadField cfg acc⟩
    | .mismatch => .rej .checksumMismatch

/-- An append that leaves or puts the decoder in `IN_FRAME` with no result (R95, R96). -/
def appendInFrame (cfg : Config) (acc : List Octet) (b : Octet) : Transition :=
  (accAppend cfg acc b).map fun acc' => (.inFrame acc', [])

/-- R90, `RX.S.FLAG`. -/
def ruleSFlag : Transition := .ok (.inFrame accClear, [])

/-- R91, `RX.S.OTHER`: the octet is discarded. -/
def ruleSOther : Transition := .ok (.searching, [])

/-- R92, `RX.F.FLAG.EMPTY`: nothing. -/
def ruleFFlagEmpty : Transition := .ok (.inFrame [], [])

/-- R93, `RX.F.FLAG.END`: the candidate is validated and the same `FLAG` opens the next frame (decision D3; log 14). -/
def ruleFFlagEnd (cfg : Config) (acc : List Octet) : Transition :=
  .ok (.inFrame accClear, [validateContent cfg acc])

/-- R94, `RX.F.ESCAPE`: the octet is withheld. -/
def ruleFEscape (acc : List Octet) : Transition := .ok (.escapePending acc, [])

/-- R95, `RX.F.LITERAL`. -/
def ruleFLiteral (cfg : Config) (acc : List Octet) (b : Octet) : Transition := appendInFrame cfg acc b

/-- R96, `RX.E.ESCAPED_5D` and `RX.E.ESCAPED_5E`: the octet is un-escaped and appended. -/
def ruleEEscaped (cfg : Config) (acc : List Octet) (b : Octet) : Transition := appendInFrame cfg acc (escapeValue b)

/-- R97, `RX.E.FLAG`: the `FLAG` starts the next frame (decision D4; log 14). -/
def ruleEFlag : Transition := raise .malformedEscape (.inFrame accClear)

/-- R98, `RX.E.OTHER`. -/
def ruleEOther : Transition := raise .malformedEscape .searching

/-- `STEP s, b` (R89). -/
def stepDecoder (cfg : Config) (st : DecoderState) (b : Octet) : Transition :=
  match st with
  | .searching => if b = FLAG then ruleSFlag else ruleSOther
  | .inFrame acc =>
    if b = FLAG then
      match acc with
      | [] => ruleFFlagEmpty
      | _ :: _ => ruleFFlagEnd cfg acc
    else if b = ESCAPE then ruleFEscape acc
    else ruleFLiteral cfg acc b
  | .escapePending acc =>
    if isEscapedValue b then ruleEEscaped cfg acc b
    else if b = FLAG then ruleEFlag
    else ruleEOther

/-- `FEED s, bytes` (R103): `STEP` on each octet in order, the results in step order. -/
def feedDecoder (cfg : Config) (st : DecoderState) : List Octet → Transition
  | [] => .ok (st, [])
  | b :: rest =>
    match stepDecoder cfg st b with
    | .error e => .error e
    | .ok (st', r) =>
      match feedDecoder cfg st' rest with
      | .error e => .error e
      | .ok (st'', rs) => .ok (st'', r ++ rs)

/-- `STEP s, b` (R89). -/
def execStepOctet (o : StateOperand) (b : Octet) (s : State) : Answer :=
  runOperand o (fun st => stepDecoder hardware st b) s

/-- `VALIDATE acc` (R99 to R102): `acc` is not empty. -/
def execValidate (first : Octet) (rest : List Octet) (s : State) : Answer :=
  .next (giveReply (.result (validateContent hardware (first :: rest))) s)

/-- `FEED s, bytes` (R103). -/
def execFeed (o : StateOperand) (bytes : List Octet) (s : State) : Answer :=
  runOperand o (fun st => feedDecoder hardware st bytes) s

/-- `RESET` of an instance (70_reset_and_hazards R131): the accumulator is discarded, no result is emitted (R134). -/
def execResetDecoder (d : Nat) (s : State) : Answer :=
  match s.decoders[d]? with
  | none => .refused .noSuchDecoder
  | some dec => .next (giveReply (.decoderState .searching) (putDecoder d dec .searching [] s))

/-- `DECODE w` (R104): the results of feeding `w` to a freshly reset decoder; the final state is dropped. -/
def execDecodeStream (w : List Octet) (s : State) : Answer :=
  match feedDecoder hardware .searching w with
  | .error e => .refused e
  | .ok (_, rs) => .next (giveReply (.results rs) s)

/-- `NEWDECODER` (70_reset_and_hazards R135): one more instance, in the reset state. The number returned is the model's own
name for it (60_exceptions R127; log 4). -/
def execNewDecoder (s : State) : Answer :=
  .next (giveReply (.instanceNumber s.decoders.length) { s with decoders := s.decoders ++ [Decoder.fresh] })

end Sys2Proof.Machine
end

