-- ==== Sys2Proof/Machine/Receive.lean ====
section
/-! DEFINITION. The receive rows: each transition rule of 44_frame_decoder run on a decoder instance, in the state and on the
octet that select its row (30_encoding R55). A row function is `none` where its row is not the one selected (log 10). -/

namespace Sys2Proof.Machine

/-- The rule of `RX.S.FLAG` (R90). -/
def rowSFlag : DecoderState → Option Transition
  | .searching => some ruleSFlag
  | .inFrame _ => none
  | .escapePending _ => none

/-- `RX.S.FLAG` (R90). -/
def execRxSFlag (d : Nat) (s : State) : Answer := runRow d rowSFlag s

/-- The rule of `RX.S.OTHER` (R91). -/
def rowSOther (b : Octet) : DecoderState → Option Transition
  | .searching => if b = FLAG then none else some ruleSOther
  | .inFrame _ => none
  | .escapePending _ => none

/-- `RX.S.OTHER` (R91). -/
def execRxSOther (d : Nat) (b : Octet) (s : State) : Answer := runRow d (rowSOther b) s

/-- The rule of `RX.F.FLAG.EMPTY` (R92). -/
def rowFFlagEmpty : DecoderState → Option Transition
  | .searching => none
  | .inFrame [] => some ruleFFlagEmpty
  | .inFrame (_ :: _) => none
  | .escapePending _ => none

/-- `RX.F.FLAG.EMPTY` (R92). -/
def execRxFFlagEmpty (d : Nat) (s : State) : Answer := runRow d rowFFlagEmpty s

/-- The rule of `RX.F.FLAG.END` (R93). -/
def rowFFlagEnd : DecoderState → Option Transition
  | .searching => none
  | .inFrame [] => none
  | .inFrame (x :: acc) => some (ruleFFlagEnd hardware (x :: acc))
  | .escapePending _ => none

/-- `RX.F.FLAG.END` (R93). -/
def execRxFFlagEnd (d : Nat) (s : State) : Answer := runRow d rowFFlagEnd s

/-- The rule of `RX.F.ESCAPE` (R94). -/
def rowFEscape : DecoderState → Option Transition
  | .searching => none
  | .inFrame acc => some (ruleFEscape acc)
  | .escapePending _ => none

/-- `RX.F.ESCAPE` (R94). -/
def execRxFEscape (d : Nat) (s : State) : Answer := runRow d rowFEscape s

/-- The rule of `RX.F.LITERAL` (R95). -/
def rowFLiteral (b : Octet) : DecoderState → Option Transition
  | .searching => none
  | .inFrame acc => if b = FLAG ∨ b = ESCAPE then none else some (ruleFLiteral hardware acc b)
  | .escapePending _ => none

/-- `RX.F.LITERAL` (R95). -/
def execRxFLiteral (d : Nat) (b : Octet) (s : State) : Answer := runRow d (rowFLiteral b) s

/-- The rule of `RX.E.ESCAPED_5D` (R96). -/
def rowEEscaped5D : DecoderState → Option Transition
  | .searching => none
  | .inFrame _ => none
  | .escapePending acc => some (ruleEEscaped hardware acc ESCAPED_ESCAPE)

/-- `RX.E.ESCAPED_5D` (R96). -/
def execRxEEscaped5D (d : Nat) (s : State) : Answer := runRow d rowEEscaped5D s

/-- The rule of `RX.E.ESCAPED_5E` (R96). -/
def rowEEscaped5E : DecoderState → Option Transition
  | .searching => none
  | .inFrame _ => none
  | .escapePending acc => some (ruleEEscaped hardware acc ESCAPED_FLAG)

/-- `RX.E.ESCAPED_5E` (R96). -/
def execRxEEscaped5E (d : Nat) (s : State) : Answer := runRow d rowEEscaped5E s

/-- The rule of `RX.E.FLAG` (R97). -/
def rowEFlag : DecoderState → Option Transition
  | .searching => none
  | .inFrame _ => none
  | .escapePending _ => some ruleEFlag

/-- `RX.E.FLAG` (R97). -/
def execRxEFlag (d : Nat) (s : State) : Answer := runRow d rowEFlag s

/-- The rule of `RX.E.OTHER` (R98). -/
def rowEOther (b : Octet) : DecoderState → Option Transition
  | .searching => none
  | .inFrame _ => none
  | .escapePending _ => if isEscapedValue b = true ∨ b = FLAG then none else some ruleEOther

/-- `RX.E.OTHER` (R98). -/
def execRxEOther (d : Nat) (b : Octet) (s : State) : Answer := runRow d (rowEOther b) s

end Sys2Proof.Machine
end

