-- ==== Sys2Proof/Machine/Dispatch.lean ====
section
/-! DEFINITION. One arm for each instruction: one direct call of its meaning. -/

namespace Sys2Proof.Machine

def exec (i : Instr) (s : State) : Host.Outcome State Fault Refusal :=
  match i with
  | .rxSFlag d => Sys2Proof.Machine.execRxSFlag d s
  | .rxSOther d b => Sys2Proof.Machine.execRxSOther d b s
  | .rxFFlagEmpty d => Sys2Proof.Machine.execRxFFlagEmpty d s
  | .rxFFlagEnd d => Sys2Proof.Machine.execRxFFlagEnd d s
  | .rxFEscape d => Sys2Proof.Machine.execRxFEscape d s
  | .rxFLiteral d b => Sys2Proof.Machine.execRxFLiteral d b s
  | .rxEEscaped5D d => Sys2Proof.Machine.execRxEEscaped5D d s
  | .rxEEscaped5E d => Sys2Proof.Machine.execRxEEscaped5E d s
  | .rxEFlag d => Sys2Proof.Machine.execRxEFlag d s
  | .rxEOther d b => Sys2Proof.Machine.execRxEOther d b s
  | .txFlag => Sys2Proof.Machine.execTxFlag s
  | .txEscape => Sys2Proof.Machine.execTxEscape s
  | .txLiteral b => Sys2Proof.Machine.execTxLiteral b s
  | .uxPEscape => Sys2Proof.Machine.execUxPEscape s
  | .uxPCopy b => Sys2Proof.Machine.execUxPCopy b s
  | .uxEEscaped5D => Sys2Proof.Machine.execUxEEscaped5D s
  | .uxEEscaped5E => Sys2Proof.Machine.execUxEEscaped5E s
  | .uxEBad b => Sys2Proof.Machine.execUxEBad b s
  | .uxEEnd => Sys2Proof.Machine.execUxEEnd s
  | .escv b => Sys2Proof.Machine.execEscv b s
  | .escEnc octets => Sys2Proof.Machine.execEscEnc octets s
  | .escDec octets => Sys2Proof.Machine.execEscDec octets s
  | .crc32 data => Sys2Proof.Machine.execCrc32 data s
  | .crc32Update c b => Sys2Proof.Machine.execCrc32Update c b s
  | .fcsGen data => Sys2Proof.Machine.execFcsGen data s
  | .fcsChk data f0 f1 f2 f3 => Sys2Proof.Machine.execFcsChk data f0 f1 f2 f3 s
  | .ctrlBuild t => Sys2Proof.Machine.execCtrlBuild t s
  | .encodeFrame a c p => Sys2Proof.Machine.execEncodeFrame a c p s
  | .stepOctet o b => Sys2Proof.Machine.execStepOctet o b s
  | .validate first rest => Sys2Proof.Machine.execValidate first rest s
  | .feed o bytes => Sys2Proof.Machine.execFeed o bytes s
  | .resetDecoder d => Sys2Proof.Machine.execResetDecoder d s
  | .decodeStream w => Sys2Proof.Machine.execDecodeStream w s
  | .newDecoder => Sys2Proof.Machine.execNewDecoder s

end Sys2Proof.Machine
end

