-- ==== Sys2Proof/Machine/Serve.lean ====
section
/-! DEFINITION. How a request is taken and how a table word is presented: the parts of the step that are not an instruction's
own effect. -/

namespace Sys2Proof.Machine

/-- The oldest request, and the state without it (20_memory R25: each octet is taken exactly once, in order). -/
def takeRequest (s : State) : Option (Request × State) :=
  match s.requests with
  | [] => none
  | r :: rest => some (r, { s with requests := rest })

/-- What happens where no row is read. In `UX.PLAIN` the end of the input ends `ESC.DEC` (40_byte_escaper R65). -/
def answerReject (e : DecodeReject) (s : State) : Answer :=
  match e with
  | .noOctet => .next (finishUx s)
  | .noSuchDecoder => .refused .noSuchDecoder
  | .noRow => .refused .rowNotSelected

/-- Presents the octet of a table word as the next octet received by instance 0, which is created if there is none (log 2).
A word of no bits presents nothing. -/
def presentWord (nbits w : Nat) (s : State) : State :=
  { s with
    decoders := match s.decoders with
      | [] => [Decoder.fresh]
      | dec :: rest => dec :: rest
    requests := (tableOctets nbits w).map (Request.octet (.rx 0)) ++ s.requests }

end Sys2Proof.Machine
end

