-- ==== Sys2Proof/Machine/Step.lean ====
section
/-! DEFINITION. One step: the oldest request is taken, decoded under the state, and its instruction runs. -/

namespace Sys2Proof.Machine

/-- One step. Where nothing is presented no step of the block happens and the state is kept (20_memory R25,
70_reset_and_hazards R139). -/
def step (s : State) : Host.Outcome State Fault Refusal :=
  match takeRequest s with
  | none => .next s
  | some (r, s') =>
    match decode (viewOf s) r with
    | .ok i => exec i s'
    | .error e => answerReject e s'

/-- `s` with a table word presented where the next step reads it (log 2, 3). -/
def State.withFetchWord (s : State) (nbits w : Nat) : State :=
  presentWord nbits w s

end Sys2Proof.Machine
end

