-- ==== Sys2Proof/Safety.lean ====
section
/-! DEFINITION. What a safe run is, in the terms the statements use: requests that can be served, the invariant of the
machine, and runs that go on for ever. -/

namespace Sys2Proof.Machine

/-- Every `ESCAPE` in a transmitted stream is the marker of a pair, followed at once by one of the two valid escaped values
(30_encoding R44; 43_frame_encoder R83). -/
def wellEscaped : List Octet → Bool
  | [] => true
  | [b] => b != ESCAPE
  | b :: n :: rest => if b = ESCAPE then isEscapedValue n && wellEscaped rest else wellEscaped (n :: rest)

/-- What an instruction belongs to: the rows of one direction, or a unit of the block with its operations. A decoder
operation carries the instance it works on, or none for a state value or a sequence passed by the caller. -/
inductive Family where
  | receive (d : Nat)
  | transmit
  | unescape
  | escaper
  | fcsEngine
  | controlBuilder
  | encoder
  | decoder (d : Option Nat)
  | creation
  deriving DecidableEq, Repr

/-- The instance an operand names, if it names one. -/
def heldInstance : StateOperand → Option Nat
  | .held d => some d
  | .value _ => none

/-- The family of each instruction. -/
def familyOf : Instr → Family
  | .rxSFlag d => .receive d
  | .rxSOther d _ => .receive d
  | .rxFFlagEmpty d => .receive d
  | .rxFFlagEnd d => .receive d
  | .rxFEscape d => .receive d
  | .rxFLiteral d _ => .receive d
  | .rxEEscaped5D d => .receive d
  | .rxEEscaped5E d => .receive d
  | .rxEFlag d => .receive d
  | .rxEOther d _ => .receive d
  | .txFlag => .transmit
  | .txEscape => .transmit
  | .txLiteral _ => .transmit
  | .uxPEscape => .unescape
  | .uxPCopy _ => .unescape
  | .uxEEscaped5D => .unescape
  | .uxEEscaped5E => .unescape
  | .uxEBad _ => .unescape
  | .uxEEnd => .unescape
  | .escv _ => .escaper
  | .escEnc _ => .escaper
  | .escDec _ => .escaper
  | .crc32 _ => .fcsEngine
  | .crc32Update _ _ => .fcsEngine
  | .fcsGen _ => .fcsEngine
  | .fcsChk _ _ _ _ _ => .fcsEngine
  | .ctrlBuild _ => .controlBuilder
  | .encodeFrame _ _ _ => .encoder
  | .stepOctet o _ => .decoder (heldInstance o)
  | .validate _ _ => .decoder none
  | .feed o _ => .decoder (heldInstance o)
  | .resetDecoder d => .decoder (some d)
  | .decodeStream _ => .decoder none
  | .newDecoder => .creation

/-- The decoder instance whose state an instruction reads or writes, if it does. -/
def instanceOf (i : Instr) : Option Nat :=
  match familyOf i with
  | .receive d => some d
  | .decoder d => d
  | .transmit | .unescape | .escaper | .fcsEngine | .controlBuilder | .encoder | .creation => none

/-- Whether `count` instances suffice for the instance an instruction names, and its frame-type selector, if it has one, is
defined: the conditions under which an instruction that decoding selects is never refused. -/
def operandsExist (count : Nat) (i : Instr) : Bool :=
  (match instanceOf i with
    | none => true
    | some d => decide (d < count)) &&
  (match i with
    | .ctrlBuild t => (frameTypeBits hardware t).isSome
    | _ => true)

/-- Whether a request names only what exists. -/
def servable (count : Nat) : Request → Bool
  | .octet (.rx d) _ => decide (d < count)
  | .octet .tx _ => true
  | .octet .ux _ => true
  | .endOfInput => true
  | .call o => operandsExist count o.toInstr

/-- The machine's invariant: the transmitted stream is well escaped, every request names what exists, and every delivered
frame has an address of `ADDR_LEN` octets. -/
structure State.Inv (s : State) : Prop where
  txEscaped : wellEscaped s.tx = true
  requestsServable : ∀ r ∈ s.requests, servable s.decoders.length r = true
  deliveredAddress : ∀ dec ∈ s.decoders, ∀ f, Result.ok f ∈ dec.results → f.address.length = hardware.addrLen

/-- A run of any length goes on: no fault and no refusal. -/
def runsForEver (s : State) : Prop := ∀ k, ∃ t, Sys2Proof.core.run k s = .next t

end Sys2Proof.Machine
end

