-- ==== Sys2Proof/Certificates/Slice0/Obligations.lean ====
section
/-! DEFINITION. The statements for the provers. "From the spec's decision" in a docstring means that the clause rests on a
choice the spec marks as its own (92_eei_decisions), by the log entry named. Where a statement speaks of `requests`, of
`replies` or of the transient `ux`, the place is the model's own: log 1, log 7, log 6. -/

open Sys2Proof Sys2Proof.Machine

/-! ## Encoding, decoding, stepping -/

/-- Decoding the encoding of a well-formed instruction, where its format is in force, gives it back, for every operand. -/
def Obligations.DecodeOfEncodeGivesInstruction : Prop :=
  ∀ (v : View) (i : Instr), i.wellFormed = true → i.inForce v = true → decode v (encode i) = .ok i

/-- What decoding gives is well formed, its format is in force, and its encoding is the request that was read: no two
requests mean one instruction, and no request means two. -/
def Obligations.DecodedInstructionEncodesBack : Prop :=
  ∀ (v : View) (r : Request) (i : Instr), decode v r = .ok i →
    i.wellFormed = true ∧ i.inForce v = true ∧ encode i = r

/-- 30_encoding R55: the row each octet selects in each format, with the end of the input in `UX.ESCAPED`; and no two rows
of a format overlap but through its catch-all row, the one row of mask 0. -/
def Obligations.DispatchTablesSelectOneRow : Prop :=
  ∀ (n d : Nat) (b : Octet),
    decodeOctet .rxSearching n d b = some (if b = 0x7E#8 then .rxSFlag d else .rxSOther d b) ∧
    decodeOctet .rxInFrame n d b =
      some (if b = 0x7E#8 then (if n = 0 then .rxFFlagEmpty d else .rxFFlagEnd d)
        else if b = 0x7D#8 then .rxFEscape d else .rxFLiteral d b) ∧
    decodeOctet .rxEscapePending n d b =
      some (if b = 0x5D#8 then .rxEEscaped5D d else if b = 0x5E#8 then .rxEEscaped5E d
        else if b = 0x7E#8 then .rxEFlag d else .rxEOther d b) ∧
    decodeOctet .tx n d b = some (if b = 0x7E#8 then .txFlag else if b = 0x7D#8 then .txEscape else .txLiteral b) ∧
    decodeOctet .uxPlain n d b = some (if b = 0x7D#8 then .uxPEscape else .uxPCopy b) ∧
    decodeOctet .uxEscaped n d b =
      some (if b = 0x5D#8 then .uxEEscaped5D else if b = 0x5E#8 then .uxEEscaped5E else .uxEBad b) ∧
    decodeOctets .uxEscaped n d [] = .ok (.uxEEnd, []) ∧
    ∀ f : Format,
      ((dispatchTable.filter (DispatchRow.selects f n b)).filter fun r => r.mask ≠ 0#8).length ≤ 1 ∧
      ((dispatchTable.filter (DispatchRow.selects f n b)).filter fun r => r.mask = 0#8).length = 1

/-- One word of each dispatch family, written out from 30_encoding R55, decodes to the instruction it stands for. -/
def Obligations.SampleWordsDecode : Prop :=
  let v : View := ⟨[.searching, .inFrame [], .inFrame [0x01#8], .escapePending [0x01#8]], .escaped⟩
  decode v (.octet (.rx 0) 0b01111110#8) = .ok (.rxSFlag 0) ∧
  decode v (.octet (.rx 0) 0b01111101#8) = .ok (.rxSOther 0 0x7D#8) ∧
  decode v (.octet (.rx 1) 0b01111110#8) = .ok (.rxFFlagEmpty 1) ∧
  decode v (.octet (.rx 2) 0b01111110#8) = .ok (.rxFFlagEnd 2) ∧
  decode v (.octet (.rx 2) 0b01011101#8) = .ok (.rxFLiteral 2 0x5D#8) ∧
  decode v (.octet (.rx 3) 0b01011101#8) = .ok (.rxEEscaped5D 3) ∧
  decode v (.octet .tx 0b01111101#8) = .ok .txEscape ∧
  decode v (.octet .ux 0b01011110#8) = .ok .uxEEscaped5E ∧
  decode v .endOfInput = .ok .uxEEnd

/-- A step takes the oldest request and runs the instruction it decodes to. That the host's wishes stand in one list, oldest
first, and that a step serves one of them, is the model's choice (log 1). -/
def Obligations.StepRunsDecodedRequest : Prop :=
  ∀ (s : State) (r : Request) (rest : List Request) (i : Instr),
    s.requests = r :: rest → decode (viewOf s) r = .ok i →
    Sys2Proof.Machine.step s = exec i { s with requests := rest }

/-- What a step does where no instruction is read (log 1, 6, 9): with no request the state is kept; the end of the input in
`UX.PLAIN` returns the output of `ESC.DEC`; an octet for an instance that does not exist is refused. -/
def Obligations.StepWithoutInstruction : Prop :=
  (∀ s : State, s.requests = [] → Sys2Proof.Machine.step s = .next s) ∧
  (∀ (s : State) (rest : List Request) (out : List Octet),
    s.requests = .endOfInput :: rest → s.ux = ⟨.plain, out⟩ →
    Sys2Proof.Machine.step s =
      .next { s with requests := rest, ux := ⟨.plain, []⟩, replies := s.replies ++ [.octets out] }) ∧
  (∀ (s : State) (rest : List Request) (d : Nat) (b : Octet),
    s.requests = .octet (.rx d) b :: rest → s.decoders.length ≤ d →
    Sys2Proof.Machine.step s = .refused .noSuchDecoder)

/-! ## The transition rules on a decoder instance -/

/-- 44_frame_decoder R90 and R91: in `SEARCHING` a `FLAG`, and nothing else, starts a frame; every other octet changes
nothing at all. -/
def Obligations.SearchingWaitsForFlag : Prop :=
  ∀ (s : State) (d : Nat) (old : List Result), s.decoders[d]? = some ⟨.searching, old⟩ →
    decode (viewOf s) (.octet (.rx d) 0x7E#8) = .ok (.rxSFlag d) ∧
    exec (.rxSFlag d) s = .next { s with decoders := s.decoders.set d ⟨.inFrame [], old⟩ } ∧
    ∀ b : Octet, b ≠ 0x7E#8 →
      decode (viewOf s) (.octet (.rx d) b) = .ok (.rxSOther d b) ∧
      exec (.rxSOther d b) s = .next s

/-- R92: a `FLAG` with nothing accumulated changes nothing and gives no result. -/
def Obligations.EmptyFrameFlagChangesNothing : Prop :=
  ∀ (s : State) (d : Nat) (old : List Result), s.decoders[d]? = some ⟨.inFrame [], old⟩ →
    decode (viewOf s) (.octet (.rx d) 0x7E#8) = .ok (.rxFFlagEmpty d) ∧
    exec (.rxFFlagEmpty d) s = .next s

/-- R93: a `FLAG` ends a candidate of at least one octet: one result, that of `VALIDATE`. The next state is from the spec's
decision D3 (log 14). -/
def Obligations.FrameEndingFlagValidates : Prop :=
  ∀ (s : State) (d : Nat) (acc : List Octet) (old : List Result), acc ≠ [] →
    s.decoders[d]? = some ⟨.inFrame acc, old⟩ →
    decode (viewOf s) (.octet (.rx d) 0x7E#8) = .ok (.rxFFlagEnd d) ∧
    exec (.rxFFlagEnd d) s =
      .next { s with decoders := s.decoders.set d ⟨.inFrame [], old ++ [validateContent hardware acc]⟩ }

/-- R94: in a frame an `ESCAPE` is withheld, the accumulator is kept, there is no result, and the escape-pending condition
(10_state R13) becomes true. -/
def Obligations.InFrameEscapeIsWithheld : Prop :=
  ∀ (s : State) (d : Nat) (acc : List Octet) (old : List Result), s.decoders[d]? = some ⟨.inFrame acc, old⟩ →
    decode (viewOf s) (.octet (.rx d) 0x7D#8) = .ok (.rxFEscape d) ∧
    exec (.rxFEscape d) s = .next { s with decoders := s.decoders.set d ⟨.escapePending acc, old⟩ } ∧
    escapePendingFlag (.inFrame acc) = false ∧ escapePendingFlag (.escapePending acc) = true

/-- R95: in a frame any octet that is not reserved is appended at the highest index. With a finite full accumulator the rule
refuses: that clause is from the spec's decision D6 (log 11). -/
def Obligations.InFrameLiteralIsAppended : Prop :=
  (∀ (s : State) (d : Nat) (acc : List Octet) (old : List Result) (b : Octet),
    b ≠ 0x7E#8 → b ≠ 0x7D#8 → s.decoders[d]? = some ⟨.inFrame acc, old⟩ →
    decode (viewOf s) (.octet (.rx d) b) = .ok (.rxFLiteral d b) ∧
    exec (.rxFLiteral d b) s = .next { s with decoders := s.decoders.set d ⟨.inFrame (acc ++ [b]), old⟩ }) ∧
  ∀ (cfg : Config) (acc : List Octet) (b : Octet), cfg.accCap = some acc.length →
    ruleFLiteral cfg acc b = .error .accumulatorOverflow

/-- R96: the second octet of a well-formed pair appends the reserved octet it stands for, and the escape-pending condition
is over. With a finite full accumulator the rule refuses: that clause is from the spec's decision D6 (log 11). -/
def Obligations.EscapePairAppendsReservedOctet : Prop :=
  (∀ (s : State) (d : Nat) (acc : List Octet) (old : List Result), s.decoders[d]? = some ⟨.escapePending acc, old⟩ →
    decode (viewOf s) (.octet (.rx d) 0x5D#8) = .ok (.rxEEscaped5D d) ∧
    exec (.rxEEscaped5D d) s = .next { s with decoders := s.decoders.set d ⟨.inFrame (acc ++ [0x7D#8]), old⟩ } ∧
    decode (viewOf s) (.octet (.rx d) 0x5E#8) = .ok (.rxEEscaped5E d) ∧
    exec (.rxEEscaped5E d) s = .next { s with decoders := s.decoders.set d ⟨.inFrame (acc ++ [0x7E#8]), old⟩ } ∧
    escapePendingFlag (.escapePending acc) = true ∧
    escapePendingFlag (.inFrame (acc ++ [0x7D#8])) = false ∧ escapePendingFlag (.inFrame (acc ++ [0x7E#8])) = false) ∧
  ∀ (cfg : Config) (acc : List Octet) (b : Octet), cfg.accCap = some acc.length →
    ruleEEscaped cfg acc b = .error .accumulatorOverflow

/-- R97: a `FLAG` after an `ESCAPE` gives one rejection and starts the next frame. The next state is from the spec's
decision D4 (log 14). -/
def Obligations.FlagAfterEscapeRejectsAndReopens : Prop :=
  ∀ (s : State) (d : Nat) (acc : List Octet) (old : List Result), s.decoders[d]? = some ⟨.escapePending acc, old⟩ →
    decode (viewOf s) (.octet (.rx d) 0x7E#8) = .ok (.rxEFlag d) ∧
    exec (.rxEFlag d) s =
      .next { s with decoders := s.decoders.set d ⟨.inFrame [], old ++ [.rej .malformedEscape]⟩ }

/-- R98: any other octet after an `ESCAPE`, a second `ESCAPE` included, gives one rejection and `SEARCHING`. -/
def Obligations.OtherOctetAfterEscapeRejects : Prop :=
  ∀ (s : State) (d : Nat) (acc : List Octet) (old : List Result) (b : Octet),
    b ≠ 0x5D#8 → b ≠ 0x5E#8 → b ≠ 0x7E#8 → s.decoders[d]? = some ⟨.escapePending acc, old⟩ →
    decode (viewOf s) (.octet (.rx d) b) = .ok (.rxEOther d b) ∧
    exec (.rxEOther d b) s =
      .next { s with decoders := s.decoders.set d ⟨.searching, old ++ [.rej .malformedEscape]⟩ } ∧
    escapePendingFlag (.escapePending acc) = true ∧ escapePendingFlag .searching = false

/-- The row an octet selects on an instance does to it exactly what `STEP` gives for its state and that octet, and nothing
else to the machine. -/
def Obligations.ReceiveRowsPerformStep : Prop :=
  ∀ (s : State) (d : Nat) (b : Octet) (dec : Decoder) (i : Instr),
    s.decoders[d]? = some dec → decode (viewOf s) (.octet (.rx d) b) = .ok i →
    ∃ st rs, stepDecoder hardware dec.state b = .ok (st, rs) ∧
      exec i s = .next { s with decoders := s.decoders.set d ⟨st, dec.results ++ rs⟩ }

/-- A row or operation that decoding can select, with operands that exist, completes: none stops the machine. -/
def Obligations.SelectedInstructionsComplete : Prop :=
  ∀ (i : Instr) (s : State), i.wellFormed = true → i.inForce (viewOf s) = true →
    operandsExist s.decoders.length i = true → ∃ t, exec i s = .next t

/-- A row run where its own format, match or condition does not select it is refused by name, as is one whose instance does
not exist; these are the model's own refusals (log 9, 10). -/
def Obligations.UnselectedRowsAreRefused : Prop :=
  ∀ (i : Instr) (s : State), (i.wellFormed && i.inForce (viewOf s)) = false →
    exec i s = .refused .rowNotSelected ∨
      (exec i s = .refused .noSuchDecoder ∧ ∃ d, familyOf i = .receive d ∧ s.decoders.length ≤ d)

/-! ## The decoder as a function of its stream -/

/-- The table of 44_frame_decoder R89, whole, for every configuration with an unbounded accumulator. Rows R93 and R97 are
from the spec's decisions D3 and D4 (log 14). -/
def Obligations.StepFollowsTransitionTable : Prop :=
  ∀ (cfg : Config) (acc : List Octet) (b : Octet), cfg.accCap = none →
    stepDecoder cfg .searching 0x7E#8 = .ok (.inFrame [], []) ∧
    (b ≠ 0x7E#8 → stepDecoder cfg .searching b = .ok (.searching, [])) ∧
    stepDecoder cfg (.inFrame []) 0x7E#8 = .ok (.inFrame [], []) ∧
    (acc ≠ [] → stepDecoder cfg (.inFrame acc) 0x7E#8 = .ok (.inFrame [], [validateContent cfg acc])) ∧
    stepDecoder cfg (.inFrame acc) 0x7D#8 = .ok (.escapePending acc, []) ∧
    (b ≠ 0x7E#8 → b ≠ 0x7D#8 → stepDecoder cfg (.inFrame acc) b = .ok (.inFrame (acc ++ [b]), [])) ∧
    stepDecoder cfg (.escapePending acc) 0x5D#8 = .ok (.inFrame (acc ++ [0x7D#8]), []) ∧
    stepDecoder cfg (.escapePending acc) 0x5E#8 = .ok (.inFrame (acc ++ [0x7E#8]), []) ∧
    stepDecoder cfg (.escapePending acc) 0x7E#8 = .ok (.inFrame [], [.rej .malformedEscape]) ∧
    (b ≠ 0x5D#8 → b ≠ 0x5E#8 → b ≠ 0x7E#8 →
      stepDecoder cfg (.escapePending acc) b = .ok (.searching, [.rej .malformedEscape]))

/-- `STEP` completes for every octet and both operand forms: an instance is updated and its results appended, a state value
comes back with the reply (log 21). -/
def Obligations.StepOperationCompletes : Prop :=
  ∀ (s : State) (b : Octet),
    (∀ (d : Nat) (dec : Decoder), s.decoders[d]? = some dec →
      ∃ st rs, stepDecoder hardware dec.state b = .ok (st, rs) ∧
        exec (.stepOctet (.held d) b) s =
          .next { s with
            decoders := s.decoders.set d ⟨st, dec.results ++ rs⟩, replies := s.replies ++ [.stepped st rs] }) ∧
    (∀ v : DecoderState,
      ∃ st rs, stepDecoder hardware v b = .ok (st, rs) ∧
        exec (.stepOctet (.value v) b) s = .next { s with replies := s.replies ++ [.stepped st rs] })

/-- `FEED` (44_frame_decoder R103) completes for every sequence, its state and results being those of `STEP` folded over the
octets. That it has two operand forms, an instance and a state value, is the model's choice (log 21). That the empty sequence
changes no decoder state and gives no result is the spec's decision D19. -/
def Obligations.FeedOperationCompletes : Prop :=
  (∀ (s : State) (bytes : List Octet),
    (∀ (d : Nat) (dec : Decoder), s.decoders[d]? = some dec →
      ∃ st rs, feedDecoder hardware dec.state bytes = .ok (st, rs) ∧
        exec (.feed (.held d) bytes) s =
          .next { s with
            decoders := s.decoders.set d ⟨st, dec.results ++ rs⟩, replies := s.replies ++ [.stepped st rs] }) ∧
    (∀ v : DecoderState,
      ∃ st rs, feedDecoder hardware v bytes = .ok (st, rs) ∧
        exec (.feed (.value v) bytes) s = .next { s with replies := s.replies ++ [.stepped st rs] })) ∧
  (∀ (cfg : Config) (st : DecoderState), feedDecoder cfg st [] = .ok (st, [])) ∧
  (∀ (cfg : Config) (st st1 st2 : DecoderState) (b : Octet) (rest : List Octet) (r1 r2 : List Result),
    stepDecoder cfg st b = .ok (st1, r1) → feedDecoder cfg st1 rest = .ok (st2, r2) →
    feedDecoder cfg st (b :: rest) = .ok (st2, r1 ++ r2))

/-- 20_memory R34: where a stream is cut into calls has no effect, for every configuration. -/
def Obligations.FeedSplitsAnywhere : Prop :=
  ∀ (cfg : Config) (st st1 : DecoderState) (x y : List Octet) (rs : List Result),
    feedDecoder cfg st x = .ok (st1, rs) →
    feedDecoder cfg st (x ++ y) = (feedDecoder cfg st1 y).map fun p => (p.1, rs ++ p.2)

/-- 44_frame_decoder R105 and R111, 20_memory R29: with an unbounded accumulator no stream, however hostile, stops the
decoder; with a finite one, exactly an append to a full accumulator is refused, by name. The refusal is from the spec's
decision D6 (log 11). -/
def Obligations.OnlyFullAccumulatorRefuses : Prop :=
  (∀ (cfg : Config) (st : DecoderState) (w : List Octet), cfg.accCap = none →
    ∃ st' rs, feedDecoder cfg st w = .ok (st', rs)) ∧
  ∀ (cfg : Config) (cap : Nat) (st : DecoderState) (b : Octet) (e : Refusal), cfg.accCap = some cap →
    (stepDecoder cfg st b = .error e ↔
      e = .accumulatorOverflow ∧
        ((∃ acc, st = .inFrame acc ∧ cap ≤ acc.length ∧ b ≠ 0x7E#8 ∧ b ≠ 0x7D#8) ∨
          ∃ acc, st = .escapePending acc ∧ cap ≤ acc.length ∧ (b = 0x5D#8 ∨ b = 0x5E#8)))

/-- 44_frame_decoder R106: at most one result per octet, only on a `FLAG` or on the octet after an `ESCAPE`; a frame is
delivered only by a `FLAG` that ends a candidate; from `Searching` there are at most half as many results as octets. -/
def Obligations.ResultsPerOctetAreBounded : Prop :=
  (∀ (cfg : Config) (st st' : DecoderState) (b : Octet) (rs : List Result), stepDecoder cfg st b = .ok (st', rs) →
    rs.length ≤ 1 ∧ (rs ≠ [] → b = 0x7E#8 ∨ escapePendingFlag st = true) ∧
    ∀ f, Result.ok f ∈ rs → b = 0x7E#8 ∧ ∃ acc, acc ≠ [] ∧ st = .inFrame acc) ∧
  ∀ (cfg : Config) (st' : DecoderState) (w : List Octet) (rs : List Result),
    feedDecoder cfg .searching w = .ok (st', rs) → 2 * rs.length ≤ w.length

/-- 44_frame_decoder R107: after a `FLAG` the state is `InFrame(ε)`, whatever it was, so what follows a `FLAG` does not
depend on what preceded it. It rests on the spec's decisions D3 and D4 (log 14). -/
def Obligations.EveryFlagReopensFrame : Prop :=
  (∀ (cfg : Config) (st : DecoderState), ∃ rs, stepDecoder cfg st 0x7E#8 = .ok (.inFrame [], rs)) ∧
  ∀ (cfg : Config) (st st' : DecoderState) (u v : List Octet) (rs : List Result),
    feedDecoder cfg st (u ++ [0x7E#8]) = .ok (st', rs) →
    st' = .inFrame [] ∧
    feedDecoder cfg st (u ++ [0x7E#8] ++ v) = (feedDecoder cfg (.inFrame []) v).map fun p => (p.1, rs ++ p.2)

/-- 70_reset_and_hazards R138: a decoder in `Searching` that joins a stream drops everything up to the next `FLAG` with no
result, and decodes what follows as from a frame start. -/
def Obligations.JoiningMidFrameIsSilent : Prop :=
  ∀ (cfg : Config) (u v : List Octet), (0x7E#8 : Octet) ∉ u →
    feedDecoder cfg .searching u = .ok (.searching, []) ∧
    feedDecoder cfg .searching (u ++ [0x7E#8] ++ v) = feedDecoder cfg (.inFrame []) v

/-- 44_frame_decoder R109, 43_frame_encoder R88: feeding an encoded frame delivers exactly its operands, for every checksum
function, address width and capacity that holds the frame. -/
def Obligations.EncodedFrameDecodesToItself : Prop :=
  ∀ (cfg : Config) (a : List Octet) (c : Octet) (p : List Octet), a.length = cfg.addrLen →
    (∀ cap, cfg.accCap = some cap → cfg.minFrame + p.length ≤ cap) →
    feedDecoder cfg .searching (wireFrame cfg a c p) = .ok (.inFrame [], [.ok ⟨a, c, p⟩]) ∧
    feedDecoder cfg (.inFrame []) (wireFrame cfg a c p) = .ok (.inFrame [], [.ok ⟨a, c, p⟩])

/-- 44_frame_decoder R108: whatever came before, an encoded frame is delivered as the last result, at its last octet. It
rests on the spec's decisions D3 and D4 (log 14). -/
def Obligations.DecoderResynchronises : Prop :=
  ∀ (cfg : Config) (st : DecoderState) (u a : List Octet) (c : Octet) (p : List Octet), cfg.accCap = none →
    a.length = cfg.addrLen →
    ∃ st' rs, feedDecoder cfg st (u ++ (wireFrame cfg a c p).dropLast) = .ok (st', rs) ∧
      feedDecoder cfg st (u ++ wireFrame cfg a c p) = .ok (.inFrame [], rs ++ [.ok ⟨a, c, p⟩])

/-- 44_frame_decoder R110, first part, and more: whatever replaces the inner octets of a frame, if it differs from them and
is no longer than they are (a changed bit or octet, or any number of them, or lost octets), the original triple is never
delivered. It holds for every checksum function. -/
def Obligations.AlteredFrameNeverDeliversOriginal : Prop :=
  ∀ (cfg : Config) (a : List Octet) (c : Octet) (p inner : List Octet) (st : DecoderState) (rs : List Result),
    inner ≠ escapeEncode (frameContent cfg a c p) →
    inner.length ≤ (escapeEncode (frameContent cfg a c p)).length →
    feedDecoder cfg .searching ([0x7E#8] ++ inner ++ [0x7E#8]) = .ok (st, rs) →
    Result.ok ⟨a, c, p⟩ ∉ rs

/-- 44_frame_decoder R110, second part, with 41_fcs_engine R75 (c): in this hardware a frame one of whose content octets was
changed, and is escaped as its new value needs, gives exactly one result, `ChecksumMismatch`. From the spec's decisions D1
and D2 (log 12, 13). -/
def Obligations.OneChangedOctetGivesChecksumMismatch : Prop :=
  ∀ (a c : Octet) (p : List Octet) (k : Nat) (v old : Octet),
    (frameContent hardware [a] c p)[k]? = some old → v ≠ old →
    feedDecoder hardware .searching
        ([0x7E#8] ++ escapeEncode ((frameContent hardware [a] c p).set k v) ++ [0x7E#8]) =
      .ok (.inFrame [], [.rej .checksumMismatch])

/-- 44_frame_decoder R99 to R102: the three outcomes of `VALIDATE` with the field positions of 30_encoding R43; they rest on
the spec's decision D1 (log 12). The operation completes on every non-empty sequence and changes nothing but the reply. -/
def Obligations.ValidateHasThreeOutcomes : Prop :=
  ∀ (s : State) (first : Octet) (rest : List Octet),
    let acc := first :: rest
    let data := acc.take (acc.length - 4)
    exec (.validate first rest) s = .next { s with replies := s.replies ++ [.result (validateContent hardware acc)] } ∧
    (acc.length < 6 → validateContent hardware acc = .rej .frameTooShort) ∧
    (6 ≤ acc.length → fcsGenerate hardware data ≠ acc.drop (acc.length - 4) →
      validateContent hardware acc = .rej .checksumMismatch) ∧
    (6 ≤ acc.length → fcsGenerate hardware data = acc.drop (acc.length - 4) →
      ∃ c : Octet, acc[1]? = some c ∧
        validateContent hardware acc = .ok ⟨[first], c, (acc.drop 2).take (acc.length - 6)⟩)

/-- `DECODE` (44_frame_decoder R104) completes on every sequence: the results of feeding it to a decoder in `Searching`. On
what `ENCODE` made it delivers the operands (43_frame_encoder R88). -/
def Obligations.DecodeOperationDeliversFrames : Prop :=
  (∀ (s : State) (w : List Octet),
    ∃ st rs, feedDecoder hardware .searching w = .ok (st, rs) ∧
      exec (.decodeStream w) s = .next { s with replies := s.replies ++ [.results rs] }) ∧
  ∀ (s : State) (a c : Octet) (p : List Octet),
    exec (.decodeStream (wireFrame hardware [a] c p)) s =
      .next { s with replies := s.replies ++ [.results [.ok ⟨[a], c, p⟩]] }

/-- 70_reset_and_hazards R131 and R134: `RESET` puts an instance in `Searching` from any state and emits no result. From the
spec's decisions D5 and D21 (log 15). -/
def Obligations.ResetDropsPartialFrame : Prop :=
  ∀ (s : State) (d : Nat) (dec : Decoder), s.decoders[d]? = some dec →
    exec (.resetDecoder d) s =
      .next { s with
        decoders := s.decoders.set d ⟨.searching, dec.results⟩, replies := s.replies ++ [.decoderState .searching] }

/-- 70_reset_and_hazards R135: `NEWDECODER` adds one instance in `Searching` with no result and touches no other; its number
is the model's own name for it (log 4). -/
def Obligations.NewDecoderStartsSearching : Prop :=
  ∀ s : State,
    exec .newDecoder s =
      .next { s with
        decoders := s.decoders ++ [⟨.searching, []⟩], replies := s.replies ++ [.instanceNumber s.decoders.length] }

/-! ## The byte escaper -/

/-- 40_byte_escaper R58 and R59: `ESCV` flips bit 5 and nothing else; it is its own inverse, has no fixed point, and takes
exactly the reserved values to the valid escaped values. -/
def Obligations.EscapeValueIsSelfInverse : Prop :=
  (∀ (s : State) (b : Octet),
    exec (.escv b) s = .next { s with replies := s.replies ++ [.octet (b ^^^ 0x20#8)] }) ∧
  (∀ b : Octet, escapeValue b = b ^^^ 0x20#8 ∧ escapeValue (escapeValue b) = b ∧ escapeValue b ≠ b ∧
    (isEscapedValue b = true ↔ b = escapeValue 0x7D#8 ∨ b = escapeValue 0x7E#8)) ∧
  escapeValue 0x7E#8 = 0x5E#8 ∧ escapeValue 0x7D#8 = 0x5D#8 ∧ Function.Bijective escapeValue

/-- 40_byte_escaper R60 to R62: what each row of the encode direction puts on `tx`, and that it changes nothing else. -/
def Obligations.TransmitRowsPutEscapedOctets : Prop :=
  ∀ s : State,
    decode (viewOf s) (.octet .tx 0x7E#8) = .ok .txFlag ∧
    exec .txFlag s = .next { s with tx := s.tx ++ [0x7D#8, 0x5E#8] } ∧
    decode (viewOf s) (.octet .tx 0x7D#8) = .ok .txEscape ∧
    exec .txEscape s = .next { s with tx := s.tx ++ [0x7D#8, 0x5D#8] } ∧
    ∀ b : Octet, b ≠ 0x7E#8 → b ≠ 0x7D#8 →
      decode (viewOf s) (.octet .tx b) = .ok (.txLiteral b) ∧
      exec (.txLiteral b) s = .next { s with tx := s.tx ++ [b] }

/-- 40_byte_escaper R63: `ESC.ENC` completes on every sequence; it replaces each reserved octet by its pair, octet by octet
and with no context. -/
def Obligations.EscapeEncodeReplacesReservedOctets : Prop :=
  (∀ (s : State) (x : List Octet),
    exec (.escEnc x) s = .next { s with replies := s.replies ++
      [.octets (x.flatMap fun b => if b = 0x7E#8 ∨ b = 0x7D#8 then [0x7D#8, b ^^^ 0x20#8] else [b])] }) ∧
  escapeEncode [] = [] ∧ ∀ x y : List Octet, escapeEncode (x ++ y) = escapeEncode x ++ escapeEncode y

/-- 40_byte_escaper R64 (a), (b), (c), (e): length, no `FLAG`, every `ESCAPE` opens a valid pair, injectivity. -/
def Obligations.EscapedSequenceProperties : Prop :=
  (∀ x : List Octet,
    (escapeEncode x).length = x.length + (x.filter fun b => b = 0x7E#8 ∨ b = 0x7D#8).length ∧
    (0x7E#8 : Octet) ∉ escapeEncode x ∧
    ∀ k, (escapeEncode x)[k]? = some 0x7D#8 →
      (escapeEncode x)[k + 1]? = some 0x5D#8 ∨ (escapeEncode x)[k + 1]? = some 0x5E#8) ∧
  Function.Injective escapeEncode

/-- 40_byte_escaper R67: un-escaping inverts escaping; and on a sequence without `FLAG` escaping inverts un-escaping, so
each content has exactly one escaped form. -/
def Obligations.EscapingRoundTrips : Prop :=
  (∀ x : List Octet, escapeDecode (escapeEncode x) = some x) ∧
  ∀ w x : List Octet, (0x7E#8 : Octet) ∉ w → escapeDecode w = some x → escapeEncode x = w

/-- 40_byte_escaper R65 and R66: `ESC.DEC` completes on every sequence; it returns `MalformedEscape` exactly when some
`ESCAPE` that opens a pair is followed by no valid escaped value. Copying a literal 0x7E and returning the error alone are
the spec's decisions D11 and D22 (log 18). -/
def Obligations.EscapeDecodeErrsOnBadPairs : Prop :=
  (∀ (s : State) (w : List Octet),
    (∀ x, escapeDecode w = some x → exec (.escDec w) s = .next { s with replies := s.replies ++ [.octets x] }) ∧
    (escapeDecode w = none → exec (.escDec w) s = .next { s with replies := s.replies ++ [.malformedEscape] })) ∧
  ∀ w : List Octet, escapeDecode w = none ↔
    ∃ before good after, w = before ++ [0x7D#8] ++ after ∧ escapeDecode before = some good ∧
      after.head? ≠ some 0x5D#8 ∧ after.head? ≠ some 0x5E#8

/-- 40_byte_escaper R65 and R66, the rows of `UX.PLAIN` and `UX.ESCAPED` on the transient of `ESC.DEC` (the model's own
field, log 6): in plain format `ESCAPE` is not output and every other octet is copied; in escaped format the two valid
values give the octet they stand for, and any other value, and the end of the input, return `MalformedEscape` alone and end
the operation (what follows in the same input: log 24). Copying a literal 0x7E and the error alone are the spec's decisions D11 and D22 (log 18). -/
def Obligations.UnescapeRowsFollowTable : Prop :=
  (∀ (s : State) (out : List Octet), s.ux = ⟨.plain, out⟩ →
    decode (viewOf s) (.octet .ux 0x7D#8) = .ok .uxPEscape ∧
    exec .uxPEscape s = .next { s with ux := ⟨.escaped, out⟩ } ∧
    ∀ b : Octet, b ≠ 0x7D#8 →
      decode (viewOf s) (.octet .ux b) = .ok (.uxPCopy b) ∧
      exec (.uxPCopy b) s = .next { s with ux := ⟨.plain, out ++ [b]⟩ }) ∧
  ∀ (s : State) (out : List Octet), s.ux = ⟨.escaped, out⟩ →
    decode (viewOf s) (.octet .ux 0x5D#8) = .ok .uxEEscaped5D ∧
    exec .uxEEscaped5D s = .next { s with ux := ⟨.plain, out ++ [0x7D#8]⟩ } ∧
    decode (viewOf s) (.octet .ux 0x5E#8) = .ok .uxEEscaped5E ∧
    exec .uxEEscaped5E s = .next { s with ux := ⟨.plain, out ++ [0x7E#8]⟩ } ∧
    decode (viewOf s) .endOfInput = .ok .uxEEnd ∧
    exec .uxEEnd s = .next { s with ux := ⟨.plain, []⟩, replies := s.replies ++ [.malformedEscape] } ∧
    ∀ b : Octet, b ≠ 0x5D#8 → b ≠ 0x5E#8 →
      decode (viewOf s) (.octet .ux b) = .ok (.uxEBad b) ∧
      exec (.uxEBad b) s = .next { s with ux := ⟨.plain, []⟩, replies := s.replies ++ [.malformedEscape] }

/-- Presented octet by octet, the rows `TX` do what `ESC.ENC` does: the machine run over the octets puts the escaped
sequence on `tx`. Presenting them as requests, and rows used alone putting on `tx`, is the model's choice (log 1, 22). -/
def Obligations.TransmitRowsRefineEscapeEncode : Prop :=
  ∀ (s : State) (x : List Octet) (rest : List Request), s.requests = x.map (Request.octet .tx) ++ rest →
    Sys2Proof.core.run x.length s = .next { s with requests := rest, tx := s.tx ++ escapeEncode x }

/-- Presented octet by octet and ended, the rows `UX` do what `ESC.DEC` does: the run returns its output; on an error it
returns `MalformedEscape` at the first offending place and the operation is over there. Presenting `ESC.DEC` octet by octet,
with a transient kept between octets and a request that ends the input, is the model's choice (log 1, 6), and so is leaving
the rest of a failed input to the requests that follow (log 24). The error alone is the spec's decision D22 (log 18). -/
def Obligations.UnescapeRowsRefineEscapeDecode : Prop :=
  ∀ (s : State) (w : List Octet) (rest : List Request),
    s.requests = w.map (Request.octet .ux) ++ .endOfInput :: rest → s.ux = ⟨.plain, []⟩ →
    (∀ x, escapeDecode w = some x →
      Sys2Proof.core.run (w.length + 1) s =
        .next { s with requests := rest, replies := s.replies ++ [.octets x] }) ∧
    (escapeDecode w = none →
      ∃ k, 2 ≤ k ∧ k ≤ w.length + 1 ∧ escapeDecode (w.take (k - 1)) = none ∧ (∃ x, escapeDecode (w.take (k - 2)) = some x) ∧
        Sys2Proof.core.run k s =
          .next { s with requests := s.requests.drop k, replies := s.replies ++ [.malformedEscape] })

/-! ## The FCS engine, the control-field builder and the encoder -/

/-- 41_fcs_engine R69 and R70: `CRC32` and `CRC32.UPDATE` complete on every operand; the function is the reflected CRC of
polynomial 0xEDB88320, initial value and final XOR 0xFFFFFFFF. From the spec's decision D2 (log 13). -/
def Obligations.CrcOperationsComplete : Prop :=
  (∀ (s : State) (data : List Octet),
    exec (.crc32 data) s = .next { s with replies := s.replies ++
      [.word (data.foldl crcUpdate 0xFFFFFFFF#32 ^^^ 0xFFFFFFFF#32)] }) ∧
  (∀ (s : State) (c : Word32) (b : Octet),
    exec (.crc32Update c b) s = .next { s with replies := s.replies ++
      [.word ((List.range 8).foldl
        (fun (x : Word32) _ => if x.getLsbD 0 = true then (x >>> 1) ^^^ 0xEDB88320#32 else x >>> 1) (c ^^^ b.setWidth 32))] }) ∧
  (∀ (c : Word32) (b : Octet), crcUpdate c b = (List.range 8).foldl
    (fun (x : Word32) _ => if x.getLsbD 0 = true then (x >>> 1) ^^^ 0xEDB88320#32 else x >>> 1) (c ^^^ b.setWidth 32)) ∧
  crc32IsoHdlc [0x31#8, 0x32#8, 0x33#8, 0x34#8, 0x35#8, 0x36#8, 0x37#8, 0x38#8, 0x39#8] = 0xCBF43926#32

/-- 41_fcs_engine R75 (c): changing any one octet of the data changes the checksum of R69. From the spec's decision D2
(log 13). -/
def Obligations.CrcDetectsOneChangedOctet : Prop :=
  ∀ (data : List Octet) (k : Nat) (v old : Octet), data[k]? = some old → v ≠ old →
    crc32IsoHdlc (data.set k v) ≠ crc32IsoHdlc data

/-- 41_fcs_engine R75 (d): data followed by its own FCS has the residue 0x2144DF1C. From the spec's decision D2 (log 13). -/
def Obligations.CrcResidueIsConstant : Prop :=
  ∀ data : List Octet, crc32IsoHdlc (data ++ fcsGenerate hardware data) = 0x2144DF1C#32

/-- 41_fcs_engine R71 and 20_memory R31: `FCS.GEN` completes on every sequence, and under every configuration its field is
the four octets of the checksum, least significant first. -/
def Obligations.FcsGenerateIsLeastSignificantFirst : Prop :=
  (∀ (s : State) (data : List Octet),
    exec (.fcsGen data) s = .next { s with replies := s.replies ++ [.octets (fcsGenerate hardware data)] }) ∧
  ∀ (cfg : Config) (data : List Octet),
    ∃ f0 f1 f2 f3 : Octet, fcsGenerate cfg data = [f0, f1, f2, f3] ∧
      cfg.crc32 data = f3 ++ f2 ++ f1 ++ f0

/-- 41_fcs_engine R72: `FCS.CHK` completes on every operand with `match` exactly when all four octets agree, and touches no
decoder; R75 (b): a generated field always matches. -/
def Obligations.FcsCheckComparesAllOctets : Prop :=
  (∀ (s : State) (data : List Octet) (f0 f1 f2 f3 : Octet),
    (fcsGenerate hardware data = [f0, f1, f2, f3] →
      exec (.fcsChk data f0 f1 f2 f3) s = .next { s with replies := s.replies ++ [.verdict .isMatch] }) ∧
    (fcsGenerate hardware data ≠ [f0, f1, f2, f3] →
      exec (.fcsChk data f0 f1 f2 f3) s = .next { s with replies := s.replies ++ [.verdict .mismatch] })) ∧
  ∀ (cfg : Config) (data : List Octet), fcsCheck cfg data (fcsGenerate cfg data) = .isMatch

/-- 42_control_field R78 and R80: `CTRL.BUILD` gives `0x03 OR frame_type_bits`, so bits 1:0 are set; the bits are a pattern
given as such, or those of a variant the configuration defines. That a selector has these two forms, that a pattern may have
any low bits, and that the unnumbered-information bits are a free value, of which the statement holds whatever they are, is
the model's choice (log 8). -/
def Obligations.ControlOctetHasDiscriminatorBits : Prop :=
  (∀ (s : State) (bits : Octet),
    exec (.ctrlBuild (.pattern bits)) s = .next { s with replies := s.replies ++ [.octet (0x03#8 ||| bits)] }) ∧
  (∀ s : State,
    exec (.ctrlBuild (.named .unnumberedInformation)) s =
      .next { s with replies := s.replies ++ [.octet (0x03#8 ||| Config.uiFrameTypeBits)] }) ∧
  (∀ (cfg : Config) (s : State) (f : FrameType) (bits : Octet), cfg.frameTypes.lookup f = some bits →
    runCtrlBuild cfg (.named f) s = .next { s with replies := s.replies ++ [.octet (0x03#8 ||| bits)] }) ∧
  ∀ bits : Octet, (0x03#8 ||| bits).getLsbD 0 = true ∧ (0x03#8 ||| bits).getLsbD 1 = true

/-- What does not exist is refused by name: an instance the host never created (log 9), a frame variant the configuration
does not define (93_implementation_defined I1; log 8), such as every category of the extension point in this hardware. -/
def Obligations.AbsentOperandsAreRefused : Prop :=
  (∀ (s : State) (d : Nat) (b : Octet) (bytes : List Octet), s.decoders.length ≤ d →
    exec (.stepOctet (.held d) b) s = .refused .noSuchDecoder ∧
    exec (.feed (.held d) bytes) s = .refused .noSuchDecoder ∧
    exec (.resetDecoder d) s = .refused .noSuchDecoder) ∧
  (∀ (s : State) (k : Nat), exec (.ctrlBuild (.named (.extension k))) s = .refused .undefinedFrameType) ∧
  ∀ (cfg : Config) (s : State) (f : FrameType), cfg.frameTypes.lookup f = none →
    runCtrlBuild cfg (.named f) s = .refused .undefinedFrameType

/-- 43_frame_encoder R82: `ENCODE` completes on every operand; body, then checksum, then escaping, then one `FLAG` on each
side, put on `tx` as one run and returned. -/
def Obligations.EncodePutsOneDelimitedFrame : Prop :=
  ∀ (s : State) (a c : Octet) (p : List Octet),
    let body := [a] ++ [c] ++ p
    let out := [0x7E#8] ++ escapeEncode (body ++ fcsGenerate hardware body) ++ [0x7E#8]
    exec (.encodeFrame a c p) s = .next { s with tx := s.tx ++ out, replies := s.replies ++ [.octets out] }

/-- 43_frame_encoder R83 and R85: in the output 0x7E stands at the two ends and nowhere else, every 0x7D is followed by 0x5D
or 0x5E, and the length is that of the content, the delimiters and one more octet for each reserved content octet. -/
def Obligations.EncodedFrameShape : Prop :=
  ∀ (cfg : Config) (a : List Octet) (c : Octet) (p : List Octet),
    let out := wireFrame cfg a c p
    (∀ k, out[k]? = some 0x7E#8 ↔ k = 0 ∨ k + 1 = out.length) ∧
    (∀ k, out[k]? = some 0x7D#8 → out[k + 1]? = some 0x5D#8 ∨ out[k + 1]? = some 0x5E#8) ∧
    (a.length = cfg.addrLen → out.length = 2 + cfg.minFrame + p.length +
      ((frameContent cfg a c p).filter fun b => b = 0x7E#8 ∨ b = 0x7D#8).length)

/-- 43_frame_encoder R84: different operand triples give different frames, for every checksum function. -/
def Obligations.EncodingIsInjective : Prop :=
  ∀ (cfg : Config) (a a' : List Octet) (c c' : Octet) (p p' : List Octet),
    a.length = cfg.addrLen → a'.length = cfg.addrLen → wireFrame cfg a c p = wireFrame cfg a' c' p' →
    a = a' ∧ c = c' ∧ p = p'

/-! ## The whole machine -/

/-- 10_state R21, 70_reset_and_hazards R132: after reset every instance is in `Searching` with no accumulator and no escape
pending (the spec's decision D5; log 15), and the invariant holds. How many instances there are, and that nothing stands on
a stream, is the model's choice (log 4, 5). -/
def Obligations.ResetStateIsSearching : Prop :=
  (∀ dec ∈ State.reset.decoders, dec.state = .searching ∧ escapePendingFlag dec.state = false) ∧ State.reset.Inv

/-- Every step keeps the invariant: the transmitted stream stays well escaped, requests name what exists, delivered
addresses have `ADDR_LEN` octets. -/
def Obligations.StepKeepsInvariant : Prop :=
  ∀ s t : State, s.Inv → Sys2Proof.Machine.step s = .next t → t.Inv

/-- 44_frame_decoder R105, 60_exceptions R124: from every state whose requests name what exists the machine runs for ever:
no error, and no sequence of errors, stops it. -/
def Obligations.InvariantRunsForEver : Prop :=
  ∀ s : State, s.Inv → runsForEver s

/-- Nothing put on `tx` or on a result stream is ever changed or withdrawn (20_memory R36), and no instance disappears. That a
step takes exactly the oldest of one list of requests is the model's choice (log 1), and so is the list of replies, which
only grows too (log 7). -/
def Obligations.StreamsOnlyGrow : Prop :=
  ∀ s t : State, Sys2Proof.Machine.step s = .next t →
    t.requests = s.requests.drop 1 ∧ s.tx <+: t.tx ∧ s.replies <+: t.replies ∧
    ∀ (e : Nat) (dec : Decoder), s.decoders[e]? = some dec →
      ∃ dec', t.decoders[e]? = some dec' ∧ dec.results <+: dec'.results

/-- The frame of every instruction: what each family leaves unchanged. Only the receive rows and the operations on an
instance change a decoder, and only that one (10_state R20); only the transmit rows and `ENCODE` change `tx` (20_memory R26;
log 22); only the UX rows change the transient of `ESC.DEC` (log 6). -/
def Obligations.InstructionsChangeOnlyTheirOwn : Prop :=
  ∀ (i : Instr) (s t : State), exec i s = .next t →
    t.requests = s.requests ∧
    (∀ e, e < s.decoders.length → instanceOf i ≠ some e → t.decoders[e]? = s.decoders[e]?) ∧
    (familyOf i ≠ .creation → t.decoders.length = s.decoders.length) ∧
    (familyOf i ≠ .transmit → familyOf i ≠ .encoder → t.tx = s.tx) ∧
    (familyOf i ≠ .unescape → t.ux = s.ux) ∧
    (∀ d, familyOf i = .receive d → t.replies = s.replies) ∧
    (familyOf i = .transmit → t.replies = s.replies)

/-- 10_state R20, 20_memory R38: what an operation does to an instance depends on that instance alone, on nothing else in
the machine. -/
def Obligations.InstanceOutcomeIgnoresTheRest : Prop :=
  ∀ (i : Instr) (d : Nat) (s s' t : State), instanceOf i = some d → s.decoders[d]? = s'.decoders[d]? →
    exec i s = .next t → ∃ t', exec i s' = .next t' ∧ t'.decoders[d]? = t.decoders[d]?

/-- 10_state R18, 43_frame_encoder R84: the operations of the escaper, the FCS engine, the control-field builder and the
encoder depend on their operands alone: in every state they return the same values, put the same octets on `tx`, and change
nothing else. -/
def Obligations.StatelessUnitsDependOnOperandsOnly : Prop :=
  ∀ (i : Instr) (s s' t : State),
    (familyOf i = .escaper ∨ familyOf i = .fcsEngine ∨ familyOf i = .controlBuilder ∨ familyOf i = .encoder) →
    exec i s = .next t →
    ∃ (out : List Octet) (r : Reply),
      t = { s with tx := s.tx ++ out, replies := s.replies ++ [r] } ∧
      exec i s' = .next { s' with tx := s'.tx ++ out, replies := s'.replies ++ [r] }

/-- 20_memory R38, 44_frame_decoder R103, 10_state R20: octets presented to any number of instances in any interleaving give
each instance the state and the results of feeding it its own stream, and nothing else changes. Offering them as one list of
requests is the model's choice (log 1, 23). -/
def Obligations.InterleavedStreamsDecodeIndependently : Prop :=
  ∀ (s : State) (offered rest : List Request), s.requests = offered ++ rest →
    (∀ r ∈ offered, ∃ e b, r = .octet (.rx e) b ∧ e < s.decoders.length) →
    ∃ ds, Sys2Proof.core.run offered.length s = .next { s with requests := rest, decoders := ds } ∧
      ds.length = s.decoders.length ∧
      ∀ (e : Nat) (dec : Decoder), s.decoders[e]? = some dec →
        ∃ st rs, feedDecoder hardware dec.state (offered.filterMap (rxOctet e)) = .ok (st, rs) ∧
          ds[e]? = some ⟨st, dec.results ++ rs⟩
end

