-- ==== Sys2Proof/Laws/Decode.lean ====
section
/-! SUPPORT. Each dispatch table as the choice it makes, one lemma per format. -/

namespace Sys2Proof

@[simp] theorem and_mask_all (b : Octet) : b &&& 0xFF#8 = b := by
  have h : (0xFF#8 : Octet) = BitVec.allOnes 8 := by decide
  rw [h, BitVec.and_allOnes]

@[simp] theorem and_mask_none (b : Octet) : b &&& 0x00#8 = 0x00#8 := BitVec.and_zero

variable (n d : Nat) (b : Octet)

theorem decodeOctet_rxSearching :
    decodeOctet .rxSearching n d b = some (if b = FLAG then .rxSFlag d else .rxSOther d b) := by
  by_cases h : b = FLAG <;>
    simp [decodeOctet, dispatchTable, rxTable, DispatchRow.selects, AccCondition.holds, List.find?, h]

theorem decodeOctet_rxInFrame :
    decodeOctet .rxInFrame n d b =
      some (if b = FLAG then (if n = 0 then .rxFFlagEmpty d else .rxFFlagEnd d)
        else if b = ESCAPE then .rxFEscape d else .rxFLiteral d b) := by
  by_cases h : b = FLAG
  · cases n <;> simp [decodeOctet, dispatchTable, rxTable, DispatchRow.selects, AccCondition.holds, List.find?, h]
  · by_cases h' : b = ESCAPE <;>
      simp [decodeOctet, dispatchTable, rxTable, DispatchRow.selects, AccCondition.holds, List.find?, h, h']

theorem decodeOctet_rxEscapePending :
    decodeOctet .rxEscapePending n d b =
      some (if b = ESCAPED_ESCAPE then .rxEEscaped5D d else if b = ESCAPED_FLAG then .rxEEscaped5E d
        else if b = FLAG then .rxEFlag d else .rxEOther d b) := by
  by_cases h1 : b = ESCAPED_ESCAPE
  · simp [decodeOctet, dispatchTable, rxTable, DispatchRow.selects, AccCondition.holds, List.find?, h1]
  · by_cases h2 : b = ESCAPED_FLAG
    · simp [decodeOctet, dispatchTable, rxTable, DispatchRow.selects, AccCondition.holds, List.find?, h2]
    · by_cases h3 : b = FLAG <;>
        simp [decodeOctet, dispatchTable, rxTable, DispatchRow.selects, AccCondition.holds, List.find?, h1, h2, h3]

theorem decodeOctet_tx :
    decodeOctet .tx n d b = some (if b = FLAG then .txFlag else if b = ESCAPE then .txEscape else .txLiteral b) := by
  by_cases h : b = FLAG
  · simp [decodeOctet, dispatchTable, rxTable, txTable, DispatchRow.selects, AccCondition.holds, List.find?, h]
  · by_cases h' : b = ESCAPE <;>
      simp [decodeOctet, dispatchTable, rxTable, txTable, DispatchRow.selects, AccCondition.holds, List.find?, h, h']

theorem decodeOctet_uxPlain :
    decodeOctet .uxPlain n d b = some (if b = ESCAPE then .uxPEscape else .uxPCopy b) := by
  by_cases h : b = ESCAPE <;>
    simp [decodeOctet, dispatchTable, rxTable, txTable, uxTable, DispatchRow.selects, AccCondition.holds, List.find?, h]

theorem decodeOctet_uxEscaped :
    decodeOctet .uxEscaped n d b =
      some (if b = ESCAPED_ESCAPE then .uxEEscaped5D else if b = ESCAPED_FLAG then .uxEEscaped5E else .uxEBad b) := by
  by_cases h1 : b = ESCAPED_ESCAPE
  · simp [decodeOctet, dispatchTable, rxTable, txTable, uxTable, DispatchRow.selects, AccCondition.holds, List.find?, h1]
  · by_cases h2 : b = ESCAPED_FLAG <;>
      simp [decodeOctet, dispatchTable, rxTable, txTable, uxTable, DispatchRow.selects, AccCondition.holds, List.find?,
        h1, h2]

/-- The row of an octet, by format. -/
theorem decodeOctets_cons {f : Format} {rest : List Octet} {i : Instr} (h : decodeOctet f n d b = some i) :
    decodeOctets f n d (b :: rest) = .ok (i, rest) := by
  simp [decodeOctets, h]

theorem decode_rx {v : View} {st : DecoderState} {i : Instr} (hv : v.decoders[d]? = some st)
    (h : decodeOctet st.format st.accLen d b = some i) : decode v (.octet (.rx d) b) = .ok i := by
  simp [decode, decodePort, hv, decodeOctets, h, Except.map]

theorem decode_tx {v : View} {i : Instr} (h : decodeOctet .tx 0 0 b = some i) : decode v (.octet .tx b) = .ok i := by
  simp [decode, decodePort, decodeOctets, h, Except.map]

theorem decode_ux {v : View} {i : Instr} (h : decodeOctet v.ux.format 0 0 b = some i) :
    decode v (.octet .ux b) = .ok i := by
  simp [decode, decodePort, decodeOctets, h, Except.map]

theorem decode_call (v : View) (o : Operation) : decode v (.call o) = .ok o.toInstr := rfl

end Sys2Proof
end

