-- ==== Sys2Proof/Laws/State.lean ====
section
/-! SUPPORT. One lemma per field for each shared update of the state. -/

namespace Sys2Proof.Machine

@[simp] theorem txPut_tx (octets : List Octet) (s : State) : (txPut octets s).tx = s.tx ++ octets := rfl
@[simp] theorem txPut_decoders (octets : List Octet) (s : State) : (txPut octets s).decoders = s.decoders := rfl
@[simp] theorem txPut_ux (octets : List Octet) (s : State) : (txPut octets s).ux = s.ux := rfl
@[simp] theorem txPut_replies (octets : List Octet) (s : State) : (txPut octets s).replies = s.replies := rfl
@[simp] theorem txPut_requests (octets : List Octet) (s : State) : (txPut octets s).requests = s.requests := rfl

@[simp] theorem giveReply_tx (r : Reply) (s : State) : (giveReply r s).tx = s.tx := rfl
@[simp] theorem giveReply_decoders (r : Reply) (s : State) : (giveReply r s).decoders = s.decoders := rfl
@[simp] theorem giveReply_ux (r : Reply) (s : State) : (giveReply r s).ux = s.ux := rfl
@[simp] theorem giveReply_replies (r : Reply) (s : State) : (giveReply r s).replies = s.replies ++ [r] := rfl
@[simp] theorem giveReply_requests (r : Reply) (s : State) : (giveReply r s).requests = s.requests := rfl

variable (d : Nat) (dec : Decoder) (st : DecoderState) (rs : List Result) (s : State)

@[simp] theorem putDecoder_decoders :
    (putDecoder d dec st rs s).decoders = s.decoders.set d ⟨st, dec.results ++ rs⟩ := rfl
@[simp] theorem putDecoder_tx : (putDecoder d dec st rs s).tx = s.tx := rfl
@[simp] theorem putDecoder_ux : (putDecoder d dec st rs s).ux = s.ux := rfl
@[simp] theorem putDecoder_replies : (putDecoder d dec st rs s).replies = s.replies := rfl
@[simp] theorem putDecoder_requests : (putDecoder d dec st rs s).requests = s.requests := rfl

@[simp] theorem finishUx_decoders : (finishUx s).decoders = s.decoders := rfl
@[simp] theorem finishUx_tx : (finishUx s).tx = s.tx := rfl
@[simp] theorem finishUx_ux : (finishUx s).ux = UxRun.start := rfl
@[simp] theorem finishUx_replies : (finishUx s).replies = s.replies ++ [.octets s.ux.out] := rfl
@[simp] theorem finishUx_requests : (finishUx s).requests = s.requests := rfl

@[simp] theorem viewOf_decoders : (viewOf s).decoders = s.decoders.map Decoder.state := rfl
@[simp] theorem viewOf_ux : (viewOf s).ux = s.ux.format := rfl

@[simp] theorem reset_decoders : State.reset.decoders = [Decoder.fresh] := rfl
@[simp] theorem reset_tx : State.reset.tx = [] := rfl
@[simp] theorem reset_ux : State.reset.ux = UxRun.start := rfl
@[simp] theorem reset_replies : State.reset.replies = [] := rfl
@[simp] theorem reset_requests : State.reset.requests = [] := rfl

end Sys2Proof.Machine
end

