-- ==== Sys2Proof/Laws/Ops.lean ====
section
/-! SUPPORT. For each shared operation, the one lemma that says everything it can do. Later proofs cite these and unfold no
operation. -/

namespace Sys2Proof.Machine

theorem runRow_eq_next {d : Nat} {rule : DecoderState → Option Transition} {s t : State} :
    runRow d rule s = .next t ↔
      ∃ dec st rs, s.decoders[d]? = some dec ∧ rule dec.state = some (.ok (st, rs)) ∧ t = putDecoder d dec st rs s := by
  cases hd : s.decoders[d]? with
  | none => simp [runRow, hd]
  | some dec =>
    cases hr : rule dec.state with
    | none => simp [runRow, hd, hr]
    | some tr =>
      cases tr with
      | error e => simp [runRow, hd, hr]
      | ok p =>
        obtain ⟨st, rs⟩ := p
        simp [runRow, hd, hr, eq_comm]

/-- The row rule of instance `d` applied where the instance stands. -/
theorem runRow_of_rule {d : Nat} {rule : DecoderState → Option Transition} {s : State} {dec : Decoder} {st : DecoderState}
    {rs : List Result} (hd : s.decoders[d]? = some dec) (hr : rule dec.state = some (.ok (st, rs))) :
    runRow d rule s = .next (putDecoder d dec st rs s) :=
  runRow_eq_next.mpr ⟨dec, st, rs, hd, hr, rfl⟩

theorem runRow_refuses_absent {d : Nat} {rule : DecoderState → Option Transition} {s : State}
    (hd : s.decoders[d]? = none) : runRow d rule s = .refused .noSuchDecoder := by
  simp [runRow, hd]

theorem runRow_refuses_unselected {d : Nat} {rule : DecoderState → Option Transition} {s : State} {dec : Decoder}
    (hd : s.decoders[d]? = some dec) (hr : rule dec.state = none) : runRow d rule s = .refused .rowNotSelected := by
  simp [runRow, hd, hr]

theorem runTx_eq_next {selected : Bool} {octets : List Octet} {s t : State} :
    runTx selected octets s = .next t ↔ selected = true ∧ t = txPut octets s := by
  unfold runTx
  split <;> simp_all [eq_comm]

theorem runUx_eq_next {format : UxFormat} {selected : Bool} {rule : UxRun → UxRun × Option Reply} {s t : State} :
    runUx format selected rule s = .next t ↔
      s.ux.format = format ∧ selected = true ∧
        t = { s with ux := (rule s.ux).1, replies := s.replies ++ (rule s.ux).2.toList } := by
  unfold runUx
  split
  · split <;> simp_all [eq_comm, giveReply]
  · simp_all

theorem runOperand_eq_next {o : StateOperand} {f : DecoderState → Transition} {s t : State} :
    runOperand o f s = .next t ↔
      ∃ st st' rs, readOperand o s = some st ∧ f st = .ok (st', rs) ∧
        t = giveReply (.stepped st' rs) (writeOperand o st' rs s) := by
  cases ho : readOperand o s with
  | none => simp [runOperand, ho]
  | some st =>
    cases hf : f st with
    | error e => simp [runOperand, ho, hf]
    | ok p =>
      obtain ⟨st', rs⟩ := p
      simp [runOperand, ho, hf, eq_comm]

theorem runEncode_eq_next {cfg : Config} {a : List Octet} {c : Octet} {p : List Octet} {s t : State} :
    runEncode cfg a c p s = .next t ↔
      payloadFits cfg p = true ∧ t = giveReply (.octets (wireFrame cfg a c p)) (txPut (wireFrame cfg a c p) s) := by
  unfold runEncode
  split
  · rename_i h
    simp only [h, true_and, Host.Outcome.next.injEq]
    exact eq_comm
  · rename_i h
    simp [h]

theorem runCtrlBuild_eq_next {cfg : Config} {f : FrameTypeSelector} {s t : State} :
    runCtrlBuild cfg f s = .next t ↔
      ∃ bits, frameTypeBits cfg f = some bits ∧ t = giveReply (.octet (controlOctet bits)) s := by
  cases h : frameTypeBits cfg f <;> simp [runCtrlBuild, h, eq_comm]

theorem runCtrlBuild_eq_refused {cfg : Config} {f : FrameTypeSelector} {s : State} {e : Refusal} :
    runCtrlBuild cfg f s = .refused e ↔ frameTypeBits cfg f = none ∧ e = .undefinedFrameType := by
  cases h : frameTypeBits cfg f <;> simp [runCtrlBuild, h, eq_comm]

@[simp] theorem frameTypeBits_pattern (cfg : Config) (bits : Octet) : frameTypeBits cfg (.pattern bits) = some bits := rfl

@[simp] theorem frameTypeBits_named (cfg : Config) (t : FrameType) :
    frameTypeBits cfg (.named t) = cfg.frameTypes.lookup t := rfl

theorem readOperand_held {d : Nat} {s : State} {dec : Decoder} (h : s.decoders[d]? = some dec) :
    readOperand (.held d) s = some dec.state := by
  simp [readOperand, h]

@[simp] theorem readOperand_value (st : DecoderState) (s : State) : readOperand (.value st) s = some st := rfl

theorem writeOperand_held {d : Nat} {s : State} {dec : Decoder} (st : DecoderState) (rs : List Result)
    (h : s.decoders[d]? = some dec) : writeOperand (.held d) st rs s = putDecoder d dec st rs s := by
  simp [writeOperand, h]

@[simp] theorem writeOperand_value (v st : DecoderState) (rs : List Result) (s : State) :
    writeOperand (.value v) st rs s = s := rfl

/-- With an unbounded accumulator an append never refuses. -/
theorem appendInFrame_unbounded {cfg : Config} (h : cfg.accCap = none) (acc : List Octet) (b : Octet) :
    appendInFrame cfg acc b = .ok (.inFrame (acc ++ [b]), []) := by
  simp [appendInFrame, accAppend, h, Except.map]

theorem appendInFrame_eq_ok {cfg : Config} {acc : List Octet} {b : Octet} {st : DecoderState} {rs : List Result} :
    appendInFrame cfg acc b = .ok (st, rs) ↔
      (∀ cap, cfg.accCap = some cap → acc.length < cap) ∧ st = .inFrame (acc ++ [b]) ∧ rs = [] := by
  unfold appendInFrame accAppend
  split
  · simp_all [Except.map, eq_comm]
  · split <;> simp_all [Except.map, eq_comm]

@[simp] theorem feedDecoder_nil (cfg : Config) (st : DecoderState) : feedDecoder cfg st [] = .ok (st, []) := rfl

theorem feedDecoder_cons_eq_ok {cfg : Config} {st st'' : DecoderState} {b : Octet} {rest : List Octet} {rs : List Result} :
    feedDecoder cfg st (b :: rest) = .ok (st'', rs) ↔
      ∃ st' r rs', stepDecoder cfg st b = .ok (st', r) ∧ feedDecoder cfg st' rest = .ok (st'', rs') ∧ rs = r ++ rs' := by
  cases h : stepDecoder cfg st b with
  | error e => simp [feedDecoder, h]
  | ok p =>
    obtain ⟨st', r⟩ := p
    cases h' : feedDecoder cfg st' rest with
    | error e => simp [feedDecoder, h, h']
    | ok q => simp [feedDecoder, h, h', Prod.ext_iff, eq_comm]

@[simp] theorem takeRequest_nil {s : State} (h : s.requests = []) : takeRequest s = none := by
  simp [takeRequest, h]

theorem takeRequest_cons {s : State} {r : Request} {rest : List Request} (h : s.requests = r :: rest) :
    takeRequest s = some (r, { s with requests := rest }) := by
  simp [takeRequest, h]

/-- A run of no step, and a run whose first step goes on: the host's `run` in terms of `step`. -/
@[simp] theorem core_run_zero (s : State) : Sys2Proof.core.run 0 s = .next s := rfl

theorem core_run_succ {k : Nat} {s t : State} (h : step s = .next t) :
    Sys2Proof.core.run (k + 1) s = Sys2Proof.core.run k t := by
  have h' : Sys2Proof.core.step s = .next t := h
  simp only [Host.Core.run, h']

theorem core_run_one (s : State) : Sys2Proof.core.run 1 s = step s := by
  have h : ∀ o : Answer, o = step s → Sys2Proof.core.run 1 s = o := by
    intro o ho
    have h' : Sys2Proof.core.step s = o := ho.symm
    cases o <;> simp only [Host.Core.run, h'] <;> rfl
  exact h _ rfl

@[simp] theorem hardware_accCap : hardware.accCap = none := rfl
@[simp] theorem hardware_payloadMax : hardware.payloadMax = none := rfl
@[simp] theorem hardware_addrLen : hardware.addrLen = 1 := rfl
@[simp] theorem hardware_crc32 : hardware.crc32 = crc32IsoHdlc := rfl
@[simp] theorem hardware_frameTypes :
    hardware.frameTypes = [(.unnumberedInformation, Config.uiFrameTypeBits)] := rfl
@[simp] theorem hardware_minFrame : hardware.minFrame = 6 := rfl

end Sys2Proof.Machine
end

