-- ==== Sys2Proof/Laws/PerInstr.lean ====
section
/-! SUPPORT. The family `Encoded`: for each constructor, the request that encodes it is that of its own row, its octet under
the row's own mask and value. It speaks of the instruction as syntax; which row decoding picks is another matter. -/

namespace Sys2Proof.Laws.Encoded

/-- The instance a port names, 0 where it names none (the rows of such a port ignore it). -/
def portInstance : Port → Nat
  | .rx d => d
  | .tx => 0
  | .ux => 0

/-- A row of the dispatch tables matches the encoded octet and makes the instruction; an operation's call names it. -/
def Statement (i : Instr) : Prop :=
  match encode i with
  | .octet p b => ∃ r ∈ dispatchTable, b &&& r.mask = r.value ∧ r.make (portInstance p) b = i
  | .endOfInput => i = .uxEEnd
  | .call o => o.toInstr = i

theorem rxSFlag (d : Nat) : Statement (.rxSFlag d) :=
  ⟨_, List.mem_of_getElem? (i := 0) rfl, rfl, rfl⟩

theorem rxSOther (d : Nat) (b : Octet) : Statement (.rxSOther d b) :=
  ⟨_, List.mem_of_getElem? (i := 1) rfl, and_mask_none _, rfl⟩

theorem rxFFlagEmpty (d : Nat) : Statement (.rxFFlagEmpty d) :=
  ⟨_, List.mem_of_getElem? (i := 2) rfl, rfl, rfl⟩

theorem rxFFlagEnd (d : Nat) : Statement (.rxFFlagEnd d) :=
  ⟨_, List.mem_of_getElem? (i := 3) rfl, rfl, rfl⟩

theorem rxFEscape (d : Nat) : Statement (.rxFEscape d) :=
  ⟨_, List.mem_of_getElem? (i := 4) rfl, rfl, rfl⟩

theorem rxFLiteral (d : Nat) (b : Octet) : Statement (.rxFLiteral d b) :=
  ⟨_, List.mem_of_getElem? (i := 5) rfl, and_mask_none _, rfl⟩

theorem rxEEscaped5D (d : Nat) : Statement (.rxEEscaped5D d) :=
  ⟨_, List.mem_of_getElem? (i := 6) rfl, rfl, rfl⟩

theorem rxEEscaped5E (d : Nat) : Statement (.rxEEscaped5E d) :=
  ⟨_, List.mem_of_getElem? (i := 7) rfl, rfl, rfl⟩

theorem rxEFlag (d : Nat) : Statement (.rxEFlag d) :=
  ⟨_, List.mem_of_getElem? (i := 8) rfl, rfl, rfl⟩

theorem rxEOther (d : Nat) (b : Octet) : Statement (.rxEOther d b) :=
  ⟨_, List.mem_of_getElem? (i := 9) rfl, and_mask_none _, rfl⟩

theorem txFlag : Statement .txFlag :=
  ⟨_, List.mem_of_getElem? (i := 10) rfl, rfl, rfl⟩

theorem txEscape : Statement .txEscape :=
  ⟨_, List.mem_of_getElem? (i := 11) rfl, rfl, rfl⟩

theorem txLiteral (b : Octet) : Statement (.txLiteral b) :=
  ⟨_, List.mem_of_getElem? (i := 12) rfl, and_mask_none _, rfl⟩

theorem uxPEscape : Statement .uxPEscape :=
  ⟨_, List.mem_of_getElem? (i := 13) rfl, rfl, rfl⟩

theorem uxPCopy (b : Octet) : Statement (.uxPCopy b) :=
  ⟨_, List.mem_of_getElem? (i := 14) rfl, and_mask_none _, rfl⟩

theorem uxEEscaped5D : Statement .uxEEscaped5D :=
  ⟨_, List.mem_of_getElem? (i := 15) rfl, rfl, rfl⟩

theorem uxEEscaped5E : Statement .uxEEscaped5E :=
  ⟨_, List.mem_of_getElem? (i := 16) rfl, rfl, rfl⟩

theorem uxEBad (b : Octet) : Statement (.uxEBad b) :=
  ⟨_, List.mem_of_getElem? (i := 17) rfl, and_mask_none _, rfl⟩

theorem uxEEnd : Statement .uxEEnd := rfl
theorem escv (b : Octet) : Statement (.escv b) := rfl
theorem escEnc (s : List Octet) : Statement (.escEnc s) := rfl
theorem escDec (s : List Octet) : Statement (.escDec s) := rfl
theorem crc32 (data : List Octet) : Statement (.crc32 data) := rfl
theorem crc32Update (c : Word32) (b : Octet) : Statement (.crc32Update c b) := rfl
theorem fcsGen (data : List Octet) : Statement (.fcsGen data) := rfl
theorem fcsChk (data : List Octet) (f0 : Octet) (f1 : Octet) (f2 : Octet) (f3 : Octet) : Statement (.fcsChk data f0 f1 f2 f3) := rfl
theorem ctrlBuild (t : FrameTypeSelector) : Statement (.ctrlBuild t) := rfl
theorem encodeFrame (a : Octet) (c : Octet) (p : List Octet) : Statement (.encodeFrame a c p) := rfl
theorem stepOctet (o : StateOperand) (b : Octet) : Statement (.stepOctet o b) := rfl
theorem validate (first : Octet) (rest : List Octet) : Statement (.validate first rest) := rfl
theorem feed (o : StateOperand) (bytes : List Octet) : Statement (.feed o bytes) := rfl
theorem resetDecoder (d : Nat) : Statement (.resetDecoder d) := rfl
theorem decodeStream (w : List Octet) : Statement (.decodeStream w) := rfl
theorem newDecoder : Statement .newDecoder := rfl

end Sys2Proof.Laws.Encoded
end

