-- ==== Sys2Proof/Tests/Slice0.lean ====
section
/-! SUPPORT. The model's own tests. Expected values are the spec's: the match columns of 30_encoding R55 for the decoding
tests, the vectors of 95_test_vectors (named B1 to B8) for the rest. After them, one witness for the hypotheses of each
obligation that has some. -/

namespace Sys2Proof.Tests

open Sys2Proof Sys2Proof.Machine

set_option maxRecDepth 16000

/-- One instance in a given state, with the results it has so far, and nothing else anywhere. -/
def one (st : DecoderState) (rs : List Result) : State := { State.reset with decoders := [⟨st, rs⟩] }

/-- `ESC.DEC` under way: format and output so far. -/
def unescaping (f : UxFormat) (out : List Octet) : State := { State.reset with ux := ⟨f, out⟩ }

/-- The next state of an answer, if it is one. -/
def nextOf : Answer → Option State
  | .next s => some s
  | .fault _ => none
  | .refused _ => none

/-- The reason of a refusal, if the answer is one. -/
def refusalOf : Answer → Option Refusal
  | .next _ => none
  | .fault _ => none
  | .refused r => some r

/-- The values returned, and what stands on `tx` (for an answer that goes on). -/
def repliesOf (a : Answer) : Option (List Reply) := (nextOf a).map State.replies
def txOf (a : Answer) : Option (List Octet) := (nextOf a).map State.tx

/-- The answer of `VALIDATE` and of the candidate-ending row on B6's contents. -/
def goodContent : List Octet := [0x01, 0x03, 0x04, 0x72, 0xCB, 0xC1]
def badContent : List Octet := [0x01, 0x03, 0x04, 0x72, 0xCB, 0xC0]
def goodFrame : Frame := ⟨[0x01], 0x03, []⟩
/-- B5.1. -/
def goodWire : List Octet := [0x7E, 0x01, 0x03, 0x04, 0x72, 0xCB, 0xC1, 0x7E]

/-! ## Ill-formed terms are refused, one for each check of `wellFormed` -/

theorem test_wf_rxSOther : (Instr.rxSOther 0 0x7E).wellFormed = false := by decide
theorem test_wf_rxFLiteral_flag : (Instr.rxFLiteral 0 0x7E).wellFormed = false := by decide
theorem test_wf_rxFLiteral_escape : (Instr.rxFLiteral 0 0x7D).wellFormed = false := by decide
theorem test_wf_rxEOther_5d : (Instr.rxEOther 0 0x5D).wellFormed = false := by decide
theorem test_wf_rxEOther_5e : (Instr.rxEOther 0 0x5E).wellFormed = false := by decide
theorem test_wf_rxEOther_flag : (Instr.rxEOther 0 0x7E).wellFormed = false := by decide
theorem test_wf_txLiteral_flag : (Instr.txLiteral 0x7E).wellFormed = false := by decide
theorem test_wf_txLiteral_escape : (Instr.txLiteral 0x7D).wellFormed = false := by decide
theorem test_wf_uxPCopy : (Instr.uxPCopy 0x7D).wellFormed = false := by decide
theorem test_wf_uxEBad_5d : (Instr.uxEBad 0x5D).wellFormed = false := by decide
theorem test_wf_uxEBad_5e : (Instr.uxEBad 0x5E).wellFormed = false := by decide
theorem test_wf_admits_rest :
    (Instr.rxSOther 0 0x7D).wellFormed = true ∧ (Instr.rxFLiteral 0 0x5D).wellFormed = true ∧
    (Instr.rxEOther 0 0x7D).wellFormed = true ∧ (Instr.txLiteral 0x5E).wellFormed = true ∧
    (Instr.uxPCopy 0x7E).wellFormed = true ∧ (Instr.uxEBad 0x7E).wellFormed = true := by decide

/-! ## Decoding: a word written out bit by bit for every row -/

theorem test_decode_rxSearching :
    decodeOctet .rxSearching 0 3 0b01111110#8 = some (.rxSFlag 3) ∧
    decodeOctet .rxSearching 0 3 0b01111101#8 = some (.rxSOther 3 0x7D) ∧
    decodeOctet .rxSearching 0 3 0b01011110#8 = some (.rxSOther 3 0x5E) := by decide

theorem test_decode_rxInFrame :
    decodeOctet .rxInFrame 0 3 0b01111110#8 = some (.rxFFlagEmpty 3) ∧
    decodeOctet .rxInFrame 1 3 0b01111110#8 = some (.rxFFlagEnd 3) ∧
    decodeOctet .rxInFrame 0 3 0b01111101#8 = some (.rxFEscape 3) ∧
    decodeOctet .rxInFrame 9 3 0b01111111#8 = some (.rxFLiteral 3 0x7F) ∧
    decodeOctet .rxInFrame 9 3 0b01011101#8 = some (.rxFLiteral 3 0x5D) := by decide

theorem test_decode_rxEscapePending :
    decodeOctet .rxEscapePending 0 3 0b01011101#8 = some (.rxEEscaped5D 3) ∧
    decodeOctet .rxEscapePending 0 3 0b01011110#8 = some (.rxEEscaped5E 3) ∧
    decodeOctet .rxEscapePending 9 3 0b01111110#8 = some (.rxEFlag 3) ∧
    decodeOctet .rxEscapePending 9 3 0b01111101#8 = some (.rxEOther 3 0x7D) ∧
    decodeOctet .rxEscapePending 0 3 0b01011111#8 = some (.rxEOther 3 0x5F) := by decide

theorem test_decode_tx :
    decodeOctet .tx 0 0 0b01111110#8 = some .txFlag ∧
    decodeOctet .tx 0 0 0b01111101#8 = some .txEscape ∧
    decodeOctet .tx 0 0 0b01011110#8 = some (.txLiteral 0x5E) := by decide

theorem test_decode_ux :
    decodeOctet .uxPlain 0 0 0b01111101#8 = some .uxPEscape ∧
    decodeOctet .uxPlain 0 0 0b01111110#8 = some (.uxPCopy 0x7E) ∧
    decodeOctet .uxEscaped 0 0 0b01011101#8 = some .uxEEscaped5D ∧
    decodeOctet .uxEscaped 0 0 0b01011110#8 = some .uxEEscaped5E ∧
    decodeOctet .uxEscaped 0 0 0b01111110#8 = some (.uxEBad 0x7E) ∧
    decodeOctets .uxEscaped 0 0 [] = .ok (.uxEEnd, []) := ⟨by decide, by decide, by decide, by decide, by decide, rfl⟩

/-- The 15 operations are selected by the interface used (R57). -/
theorem test_decode_operations (v : View) :
    decode v (.call (.escv 0x7E)) = .ok (.escv 0x7E) ∧
    decode v (.call (.escEnc [0x7E])) = .ok (.escEnc [0x7E]) ∧
    decode v (.call (.escDec [0x7D, 0x5E])) = .ok (.escDec [0x7D, 0x5E]) ∧
    decode v (.call (.crc32 [0x61])) = .ok (.crc32 [0x61]) ∧
    decode v (.call (.crc32Update 0xFFFFFFFF 0x01)) = .ok (.crc32Update 0xFFFFFFFF 0x01) ∧
    decode v (.call (.fcsGen [0x00])) = .ok (.fcsGen [0x00]) ∧
    decode v (.call (.fcsChk [0x01, 0x03] 0x04 0x72 0xCB 0xC1)) = .ok (.fcsChk [0x01, 0x03] 0x04 0x72 0xCB 0xC1) ∧
    decode v (.call (.ctrlBuild (.named .unnumberedInformation))) = .ok (.ctrlBuild (.named .unnumberedInformation)) ∧
    decode v (.call (.encodeFrame 0x01 0x03 [0x17])) = .ok (.encodeFrame 0x01 0x03 [0x17]) ∧
    decode v (.call (.stepOctet (.held 1) 0x7E)) = .ok (.stepOctet (.held 1) 0x7E) ∧
    decode v (.call (.validate 0x41 [0x42])) = .ok (.validate 0x41 [0x42]) ∧
    decode v (.call (.feed (.value .searching) [0x7E])) = .ok (.feed (.value .searching) [0x7E]) ∧
    decode v (.call (.resetDecoder 1)) = .ok (.resetDecoder 1) ∧
    decode v (.call (.decodeStream [0x7E])) = .ok (.decodeStream [0x7E]) ∧
    decode v (.call .newDecoder) = .ok .newDecoder :=
  ⟨rfl, rfl, rfl, rfl, rfl, rfl, rfl, rfl, rfl, rfl, rfl, rfl, rfl, rfl, rfl⟩

theorem test_decodeTableWord :
    decodeTableWord 8 0x7E = some (.rxSFlag 0) ∧ decodeTableWord 8 0x00 = some (.rxSOther 0 0x00) ∧
    decodeTableWord 0 0 = none := by decide

theorem test_withFetchWord :
    nextOf (step (State.reset.withFetchWord 8 0x7E)) = some (one (.inFrame []) []) ∧
    nextOf (step (State.reset.withFetchWord 8 0x7D)) = some State.reset := by decide

/-! ## The receive rows and `STEP` (B6) -/

theorem test_rxSFlag : nextOf (exec (.rxSFlag 0) (one .searching [])) = some (one (.inFrame []) []) := by decide
theorem test_rxSOther : nextOf (exec (.rxSOther 0 0x7D) (one .searching [])) = some (one .searching []) := by decide
theorem test_rxFFlagEmpty : nextOf (exec (.rxFFlagEmpty 0) (one (.inFrame []) [])) = some (one (.inFrame []) []) := by
  decide
theorem test_rxFFlagEnd_ok :
    nextOf (exec (.rxFFlagEnd 0) (one (.inFrame goodContent) [])) = some (one (.inFrame []) [.ok goodFrame]) := by decide
theorem test_rxFFlagEnd_bad :
    nextOf (exec (.rxFFlagEnd 0) (one (.inFrame badContent) [.rej .frameTooShort])) =
      some (one (.inFrame []) [.rej .frameTooShort, .rej .checksumMismatch]) := by decide
theorem test_rxFEscape :
    nextOf (exec (.rxFEscape 0) (one (.inFrame [0x01, 0x03]) [])) = some (one (.escapePending [0x01, 0x03]) []) := by decide
theorem test_rxFLiteral :
    nextOf (exec (.rxFLiteral 0 0x7C) (one (.inFrame [0x01]) [])) = some (one (.inFrame [0x01, 0x7C]) []) := by decide
theorem test_rxEEscaped5D :
    nextOf (exec (.rxEEscaped5D 0) (one (.escapePending [0x01, 0x03]) [])) =
      some (one (.inFrame [0x01, 0x03, 0x7D]) []) := by decide
theorem test_rxEEscaped5E :
    nextOf (exec (.rxEEscaped5E 0) (one (.escapePending []) [])) = some (one (.inFrame [0x7E]) []) := by decide
theorem test_rxEFlag :
    nextOf (exec (.rxEFlag 0) (one (.escapePending [0x01, 0x03]) [])) =
      some (one (.inFrame []) [.rej .malformedEscape]) := by decide
theorem test_rxEOther :
    nextOf (exec (.rxEOther 0 0x7D) (one (.escapePending goodContent) [])) =
      some (one .searching [.rej .malformedEscape]) := by decide
theorem test_stepOctet_held :
    nextOf (exec (.stepOctet (.held 0) 0x7E) (one (.inFrame [0x41]) [])) =
      some { one (.inFrame []) [.rej .frameTooShort] with replies := [.stepped (.inFrame []) [.rej .frameTooShort]] } := by
  decide
theorem test_stepOctet_value :
    nextOf (exec (.stepOctet (.value (.escapePending [0x01, 0x03])) 0x5F) State.reset) =
      some { State.reset with replies := [.stepped .searching [.rej .malformedEscape]] } := by decide

/-! ## Validation, feeding, reset, creation (B5, B7, B8) -/

theorem test_validate_short :
    repliesOf (exec (.validate 0x00 [0x00, 0x00, 0x00, 0x00]) State.reset) = some [.result (.rej .frameTooShort)] := by decide
theorem test_validate_zeros :
    repliesOf (exec (.validate 0x00 [0x00, 0x00, 0x00, 0x00, 0x00]) State.reset) =
      some [.result (.rej .checksumMismatch)] := by decide
theorem test_feed_B7_13 :
    repliesOf (exec (.feed (.value .searching) [0x7E, 0x01, 0x03, 0x7D, 0x7E, 0xDD, 0xBC, 0x13, 0x62, 0x7E]) State.reset) =
      some [.stepped (.inFrame []) [.rej .malformedEscape, .rej .frameTooShort]] := by decide
theorem test_feed_ends_after_escape :
    nextOf (exec (.feed (.held 0) [0x7E, 0x7D]) State.reset) =
      some { one (.escapePending []) [] with replies := [.stepped (.escapePending []) []] } := by decide
theorem test_decodeStream_B7_14 :
    repliesOf (exec (.decodeStream [0x01, 0x7D, 0x5E, 0x03, 0x7E, 0x01, 0x03, 0x04, 0x72, 0xCB, 0xC1, 0x7E]) State.reset) =
      some [.results [.ok goodFrame]] := by decide
theorem test_resetDecoder :
    nextOf (exec (.resetDecoder 0) (one (.escapePending [0x01, 0x03]) [])) =
      some { one .searching [] with replies := [.decoderState .searching] } := by decide
theorem test_newDecoder :
    (nextOf (exec .newDecoder (one (.inFrame [0x01]) []))).map State.decoders =
      some [⟨.inFrame [0x01], []⟩, ⟨.searching, []⟩] := by decide

/-! ## The escaper (B1 to B3) -/

theorem test_txFlag : txOf (exec .txFlag State.reset) = some [0x7D, 0x5E] := by decide
theorem test_txEscape : txOf (exec .txEscape State.reset) = some [0x7D, 0x5D] := by decide
theorem test_txLiteral : txOf (exec (.txLiteral 0x5E) State.reset) = some [0x5E] := by decide
theorem test_uxPEscape :
    nextOf (exec .uxPEscape (unescaping .plain [0x41])) = some (unescaping .escaped [0x41]) := by decide
theorem test_uxPCopy :
    nextOf (exec (.uxPCopy 0x7E) (unescaping .plain [])) = some (unescaping .plain [0x7E]) := by decide
theorem test_uxEEscaped5D :
    nextOf (exec .uxEEscaped5D (unescaping .escaped [0x7E])) = some (unescaping .plain [0x7E, 0x7D]) := by decide
theorem test_uxEEscaped5E :
    nextOf (exec .uxEEscaped5E (unescaping .escaped [0x41])) = some (unescaping .plain [0x41, 0x7E]) := by decide
theorem test_uxEBad :
    nextOf (exec (.uxEBad 0x00) (unescaping .escaped [0x41])) =
      some { unescaping .plain [] with replies := [.malformedEscape] } := by decide
theorem test_uxEEnd :
    nextOf (exec .uxEEnd (unescaping .escaped [0x41])) =
      some { unescaping .plain [] with replies := [.malformedEscape] } := by decide
theorem test_escv_flag : repliesOf (exec (.escv 0x7E) State.reset) = some [.octet 0x5E] := by decide
theorem test_escv_ones : repliesOf (exec (.escv 0xFF) State.reset) = some [.octet 0xDF] := by decide
theorem test_escEnc :
    repliesOf (exec (.escEnc [0x00, 0x7D, 0x7E, 0x20]) State.reset) =
      some [.octets [0x00, 0x7D, 0x5D, 0x7D, 0x5E, 0x20]] := by decide
theorem test_escDec_good :
    repliesOf (exec (.escDec [0x41, 0x7D, 0x5E, 0x42, 0x5D]) State.reset) =
      some [.octets [0x41, 0x7E, 0x42, 0x5D]] := by decide
theorem test_escDec_bad :
    repliesOf (exec (.escDec [0x7D, 0x00, 0x7D, 0x5E]) State.reset) = some [.malformedEscape] := by decide

/-! ## The FCS engine, the control builder, the encoder (B4, B5) -/

theorem test_crc32_check :
    repliesOf (exec (.crc32 [0x31, 0x32, 0x33, 0x34, 0x35, 0x36, 0x37, 0x38, 0x39]) State.reset) =
      some [.word 0xCBF43926] := by decide
theorem test_crc32_empty : repliesOf (exec (.crc32 []) State.reset) = some [.word 0x00000000] := by decide
theorem test_crc32Update_00 :
    repliesOf (exec (.crc32Update 0xFFFFFFFF 0x00) State.reset) = some [.word 0x2DFD1072] := by decide
theorem test_crc32Update_01 :
    repliesOf (exec (.crc32Update 0xFFFFFFFF 0x01) State.reset) = some [.word 0x5AFA20E4] := by decide
theorem test_fcsGen :
    repliesOf (exec (.fcsGen [0x01, 0x03]) State.reset) = some [.octets [0x04, 0x72, 0xCB, 0xC1]] := by decide
theorem test_fcsChk_match :
    repliesOf (exec (.fcsChk [0x00, 0x00] 0xFF 0x12 0xD9 0x41) State.reset) = some [.verdict .isMatch] := by decide
theorem test_fcsChk_reversed :
    repliesOf (exec (.fcsChk [0x01, 0x03] 0xC1 0xCB 0x72 0x04) State.reset) = some [.verdict .mismatch] := by decide
theorem test_ctrlBuild_pattern : repliesOf (exec (.ctrlBuild (.pattern 0x00)) State.reset) = some [.octet 0x03] := by decide
theorem test_ctrlBuild_undefined : refusalOf (exec (.ctrlBuild (.named (.extension 0))) State.reset) = some .undefinedFrameType := by
  decide
theorem test_encodeFrame_B5_1 :
    nextOf (exec (.encodeFrame 0x01 0x03 []) State.reset) =
      some { State.reset with tx := goodWire, replies := [.octets goodWire] } := by decide
theorem test_encodeFrame_B5_3 :
    txOf (exec (.encodeFrame 0x7E 0x7D [0x7E, 0x7D]) State.reset) =
      some [0x7E, 0x7D, 0x5E, 0x7D, 0x5D, 0x7D, 0x5E, 0x7D, 0x5D, 0x49, 0xAA, 0x85, 0x69, 0x7E] := by decide

/-- The numbers of the tags (10_state R10) and of the result kinds (60_exceptions R112). -/
theorem test_codes :
    tagCode .searching = 0 ∧ tagCode .inFrame = 1 ∧ tagCode .escapePending = 2 ∧
    resultCode (.ok goodFrame) = 0 ∧ resultCode (.rej .malformedEscape) = 1 ∧
    resultCode (.rej .frameTooShort) = 2 ∧ resultCode (.rej .checksumMismatch) = 3 := by decide

/-- Two frames, one after the other, read back from `rx` as they were offered (20_memory R23, R25). -/
theorem test_rxStream :
    rxStream 1 { State.reset with
      requests := [.octet (.rx 1) 0x7E, .octet .tx 0x00, .octet (.rx 0) 0x01, .octet (.rx 1) 0x41] } = [0x7E, 0x41] := by
  decide

/-! ## Witnesses: for each obligation with hypotheses, a state and operands that meet them -/

theorem witness_DecodeOfEncodeGivesInstruction :
    let v : View := ⟨[.searching, .inFrame [0x01]], .plain⟩
    let i : Instr := .rxFLiteral 1 0x5D
    i.wellFormed = true ∧ i.inForce v = true := by decide

theorem witness_DecodedInstructionEncodesBack :
    decode ⟨[.inFrame []], .plain⟩ (.octet (.rx 0) 0x7E) = .ok (.rxFFlagEmpty 0) := rfl

theorem witness_StepRunsDecodedRequest :
    let s : State := { State.reset with requests := [.octet (.rx 0) 0x7E, .endOfInput] }
    s.requests = .octet (.rx 0) 0x7E :: [.endOfInput] ∧ decode (viewOf s) (.octet (.rx 0) 0x7E) = .ok (.rxSFlag 0) :=
  ⟨rfl, rfl⟩

theorem witness_StepWithoutInstruction :
    State.reset.requests = [] ∧
    (∃ s : State, s.requests = .endOfInput :: [] ∧ s.ux = ⟨.plain, [0x41]⟩) ∧
    ∃ s : State, s.requests = .octet (.rx 1) 0x7E :: [] ∧ s.decoders.length ≤ 1 :=
  ⟨rfl, ⟨{ unescaping .plain [0x41] with requests := [.endOfInput] }, rfl, rfl⟩,
    ⟨{ State.reset with requests := [.octet (.rx 1) 0x7E] }, rfl, by decide⟩⟩

theorem witness_SearchingWaitsForFlag :
    (one .searching []).decoders[0]? = some ⟨.searching, []⟩ ∧ (0x7D#8 : Octet) ≠ 0x7E#8 ∧ (0x7F#8 : Octet) ≠ 0x7E#8 := by
  decide

theorem witness_EmptyFrameFlagChangesNothing :
    (one (.inFrame []) [.rej .frameTooShort]).decoders[0]? = some ⟨.inFrame [], [.rej .frameTooShort]⟩ := by decide

theorem witness_FrameEndingFlagValidates :
    ([0x41] : List Octet) ≠ [] ∧ (one (.inFrame [0x41]) []).decoders[0]? = some ⟨.inFrame [0x41], []⟩ := by decide

theorem witness_InFrameEscapeIsWithheld :
    (one (.inFrame []) []).decoders[0]? = some ⟨.inFrame [], []⟩ := by decide

theorem witness_InFrameLiteralIsAppended :
    ((0x7C#8 : Octet) ≠ 0x7E#8 ∧ (0x7C#8 : Octet) ≠ 0x7D#8 ∧
      (one (.inFrame [0x01]) []).decoders[0]? = some ⟨.inFrame [0x01], []⟩) ∧
    ((0x7F#8 : Octet) ≠ 0x7E#8 ∧ (0x7F#8 : Octet) ≠ 0x7D#8) ∧
    ∃ (cfg : Config) (acc : List Octet), cfg.accCap = some acc.length :=
  ⟨by decide, by decide, { hardware with accCap := some 1 }, [0x01], rfl⟩

theorem witness_EscapePairAppendsReservedOctet :
    (one (.escapePending []) []).decoders[0]? = some ⟨.escapePending [], []⟩ ∧
    ∃ (cfg : Config) (acc : List Octet), cfg.accCap = some acc.length :=
  ⟨by decide, { hardware with accCap := some 0 }, [], rfl⟩

theorem witness_FlagAfterEscapeRejectsAndReopens :
    (one (.escapePending [0x01]) []).decoders[0]? = some ⟨.escapePending [0x01], []⟩ := by decide

theorem witness_OtherOctetAfterEscapeRejects :
    (∀ b ∈ ([0x5C#8, 0x5F#8, 0x7D#8, 0x7F#8] : List Octet), b ≠ 0x5D#8 ∧ b ≠ 0x5E#8 ∧ b ≠ 0x7E#8) ∧
    (one (.escapePending []) []).decoders[0]? = some ⟨.escapePending [], []⟩ := by decide

theorem witness_ReceiveRowsPerformStep :
    (one (.inFrame [0x01]) []).decoders[0]? = some ⟨.inFrame [0x01], []⟩ ∧
    decode (viewOf (one (.inFrame [0x01]) [])) (.octet (.rx 0) 0x7E) = .ok (.rxFFlagEnd 0) := ⟨rfl, rfl⟩

theorem witness_SelectedInstructionsComplete :
    let i : Instr := .uxEBad 0x41
    let s := unescaping .escaped [0x42]
    i.wellFormed = true ∧ i.inForce (viewOf s) = true ∧ operandsExist s.decoders.length i = true ∧
    operandsExist s.decoders.length (.ctrlBuild (.named .unnumberedInformation)) = true ∧
    operandsExist s.decoders.length (.stepOctet (.held 0) 0x7E) = true := by decide

theorem witness_UnselectedRowsAreRefused :
    let i : Instr := .rxSFlag 0
    let j : Instr := .txLiteral 0x7E
    (i.wellFormed && i.inForce (viewOf (one (.inFrame []) []))) = false ∧
    (j.wellFormed && j.inForce (viewOf State.reset)) = false := by decide

theorem witness_StepFollowsTransitionTable :
    hardware.accCap = none ∧ ([0x01] : List Octet) ≠ [] ∧ (0x41#8 : Octet) ≠ 0x7E#8 ∧ (0x41#8 : Octet) ≠ 0x7D#8 ∧
    (0x41#8 : Octet) ≠ 0x5D#8 ∧ (0x41#8 : Octet) ≠ 0x5E#8 := ⟨rfl, by decide⟩

theorem witness_StepOperationCompletes : State.reset.decoders[0]? = some ⟨.searching, []⟩ := rfl

theorem witness_FeedOperationCompletes :
    State.reset.decoders[0]? = some ⟨.searching, []⟩ ∧
    stepDecoder hardware .searching 0x7E = .ok (.inFrame [], []) ∧
    feedDecoder hardware (.inFrame []) [0x41] = .ok (.inFrame [0x41], []) := ⟨rfl, rfl, rfl⟩

theorem witness_FeedSplitsAnywhere :
    feedDecoder hardware .searching [0x7E, 0x7D] = .ok (.escapePending [], []) := rfl

theorem witness_OnlyFullAccumulatorRefuses :
    hardware.accCap = none ∧ ∃ cfg : Config, cfg.accCap = some 0 ∧
      stepDecoder cfg (.inFrame []) 0x41 = .error .accumulatorOverflow :=
  ⟨rfl, { hardware with accCap := some 0 }, rfl, rfl⟩

theorem witness_ResultsPerOctetAreBounded :
    stepDecoder hardware (.inFrame [0x41]) 0x7E = .ok (.inFrame [], [.rej .frameTooShort]) ∧
    Result.ok goodFrame ∈ [Result.ok goodFrame] ∧
    stepDecoder hardware (.inFrame goodContent) 0x7E = .ok (.inFrame [], [.ok goodFrame]) ∧
    feedDecoder hardware .searching [0x7E, 0x7D, 0x7E, 0x41, 0x7E] =
      .ok (.inFrame [], [.rej .malformedEscape, .rej .frameTooShort]) := ⟨rfl, by decide, rfl, rfl⟩

theorem witness_EveryFlagReopensFrame :
    feedDecoder hardware .searching ([0x7E, 0x41] ++ [0x7E]) = .ok (.inFrame [], [.rej .frameTooShort]) := rfl

theorem witness_JoiningMidFrameIsSilent : (0x7E#8 : Octet) ∉ ([0x04, 0x7D, 0x5E, 0xC1] : List Octet) := by decide

theorem witness_EncodedFrameDecodesToItself :
    ([0x01] : List Octet).length = hardware.addrLen ∧ (∀ cap, hardware.accCap = some cap → hardware.minFrame + 0 ≤ cap) ∧
    ∃ cfg : Config, cfg.addrLen = 1 ∧ ∀ cap, cfg.accCap = some cap → cfg.minFrame + 1 ≤ cap :=
  ⟨rfl, by intro cap h; simp at h, { hardware with accCap := some 7 }, rfl, by
    intro cap h
    simp only [Option.some.injEq] at h
    subst h
    decide⟩

theorem witness_DecoderResynchronises : hardware.accCap = none ∧ ([0x01] : List Octet).length = hardware.addrLen :=
  ⟨rfl, rfl⟩

theorem witness_AlteredFrameNeverDeliversOriginal :
    let inner : List Octet := [0x01, 0x03, 0x04, 0x72, 0xCB, 0xC0]
    inner ≠ escapeEncode (frameContent hardware [0x01] 0x03 []) ∧
    inner.length ≤ (escapeEncode (frameContent hardware [0x01] 0x03 [])).length ∧
    feedDecoder hardware .searching ([0x7E] ++ inner ++ [0x7E]) = .ok (.inFrame [], [.rej .checksumMismatch]) :=
  ⟨by decide, by decide, rfl⟩

theorem witness_OneChangedOctetGivesChecksumMismatch :
    (frameContent hardware [0x01] 0x03 [])[0]? = some 0x01 ∧ (0x7E#8 : Octet) ≠ 0x01 ∧
    (frameContent hardware [0x01] 0x03 [])[5]? = some 0xC1 ∧ (0xC0#8 : Octet) ≠ 0xC1 := by decide

theorem witness_ValidateHasThreeOutcomes :
    ([0x00, 0x00, 0x00, 0x00, 0x00] : List Octet).length < 6 ∧
    (6 ≤ badContent.length ∧ fcsGenerate hardware (badContent.take 2) ≠ badContent.drop 2) ∧
    6 ≤ goodContent.length ∧ fcsGenerate hardware (goodContent.take 2) = goodContent.drop 2 := by decide

theorem witness_ResetDropsPartialFrame :
    (one (.escapePending [0x01]) []).decoders[0]? = some ⟨.escapePending [0x01], []⟩ := by decide

theorem witness_TransmitRowsPutEscapedOctets :
    (0x5E#8 : Octet) ≠ 0x7E#8 ∧ (0x5E#8 : Octet) ≠ 0x7D#8 ∧ (0x7F#8 : Octet) ≠ 0x7E#8 ∧ (0x7C#8 : Octet) ≠ 0x7D#8 := by decide

theorem witness_EscapedSequenceProperties : (escapeEncode [0x7E])[0]? = some 0x7D#8 := by decide

theorem witness_EscapingRoundTrips :
    (0x7E#8 : Octet) ∉ ([0x7D, 0x5E] : List Octet) ∧ escapeDecode [0x7D, 0x5E] = some [0x7E] := by decide

theorem witness_EscapeDecodeErrsOnBadPairs :
    escapeDecode [0x7D, 0x5E] = some [0x7E] ∧ escapeDecode [0x41, 0x7D] = none := by decide

theorem witness_UnescapeRowsFollowTable :
    (unescaping .plain [0x41]).ux = ⟨.plain, [0x41]⟩ ∧ (0x7E#8 : Octet) ≠ 0x7D#8 ∧
    (unescaping .escaped []).ux = ⟨.escaped, []⟩ ∧ (0x7D#8 : Octet) ≠ 0x5D#8 ∧ (0x7D#8 : Octet) ≠ 0x5E#8 := by decide

theorem witness_TransmitRowsRefineEscapeEncode :
    ∃ s : State, s.requests = ([0x7E, 0x41] : List Octet).map (Request.octet .tx) ++ [.call .newDecoder] :=
  ⟨{ State.reset with requests := [.octet .tx 0x7E, .octet .tx 0x41, .call .newDecoder] }, rfl⟩

theorem witness_UnescapeRowsRefineEscapeDecode :
    (∃ s : State, s.requests = ([0x7D, 0x5E] : List Octet).map (Request.octet .ux) ++ .endOfInput :: [] ∧
      s.ux = ⟨.plain, []⟩ ∧ escapeDecode [0x7D, 0x5E] = some [0x7E]) ∧
    ∃ s : State, s.requests = ([0x7D] : List Octet).map (Request.octet .ux) ++ .endOfInput :: [.endOfInput] ∧
      s.ux = ⟨.plain, []⟩ ∧ escapeDecode [0x7D] = none :=
  ⟨⟨{ State.reset with requests := [.octet .ux 0x7D, .octet .ux 0x5E, .endOfInput] }, rfl, rfl, rfl⟩,
    ⟨{ State.reset with requests := [.octet .ux 0x7D, .endOfInput, .endOfInput] }, rfl, rfl, rfl⟩⟩

theorem witness_CrcDetectsOneChangedOctet :
    ([0x01, 0x03] : List Octet)[1]? = some 0x03 ∧ (0x02#8 : Octet) ≠ 0x03 := by decide

theorem witness_FcsCheckComparesAllOctets :
    fcsGenerate hardware [0x01, 0x03] = [0x04, 0x72, 0xCB, 0xC1] ∧
    fcsGenerate hardware [0x01, 0x03] ≠ [0x04, 0x72, 0xCB, 0xC0] := by decide

theorem witness_AbsentOperandsAreRefused :
    State.reset.decoders.length ≤ 1 ∧ hardware.frameTypes.lookup (.extension 0) = none := ⟨by decide, rfl⟩

/-- A configuration that defines one variant of the extension point. -/
def extended : Config := { hardware with frameTypes := hardware.frameTypes ++ [(.extension 7, 0x10)] }

theorem witness_ControlOctetHasDiscriminatorBits :
    extended.frameTypes.lookup (.extension 7) = some 0x10 ∧
    hardware.frameTypes.lookup .unnumberedInformation = some Config.uiFrameTypeBits := ⟨rfl, rfl⟩

theorem witness_EncodedFrameShape :
    ([0x01] : List Octet).length = hardware.addrLen ∧ (wireFrame hardware [0x01] 0x03 [0x7E])[3]? = some 0x7D#8 := by decide

theorem witness_EncodingIsInjective :
    ([0x01] : List Octet).length = hardware.addrLen ∧
    wireFrame hardware [0x01] 0x03 [] = wireFrame hardware [0x01] 0x03 [] := ⟨rfl, rfl⟩

/-- A state with a delivered frame, a transmitted pair and a request, in which the invariant holds. -/
def busy : State :=
  { one (.inFrame [0x41]) [.ok goodFrame] with tx := [0x7E, 0x7D, 0x5E], requests := [.octet (.rx 0) 0x7E] }

theorem witness_busy_inv : busy.Inv := by
  refine ⟨by decide, by decide, ?_⟩
  intro dec h f hf
  simp only [busy, one, List.mem_singleton] at h
  subst h
  simp only [List.mem_singleton, Result.ok.injEq] at hf
  subst hf
  rfl

theorem witness_StepKeepsInvariant : busy.Inv ∧ ∃ t, step busy = .next t := ⟨witness_busy_inv, _, rfl⟩

theorem witness_InvariantRunsForEver : busy.Inv := witness_busy_inv

theorem witness_StreamsOnlyGrow :
    (∃ t, step busy = .next t) ∧ busy.decoders[0]? = some ⟨.inFrame [0x41], [.ok goodFrame]⟩ := ⟨⟨_, rfl⟩, rfl⟩

theorem witness_InstructionsChangeOnlyTheirOwn :
    (∃ t, exec (.rxFFlagEnd 0) busy = .next t) ∧ familyOf (.rxFFlagEnd 0) = .receive 0 ∧
    (∃ t, exec .txFlag busy = .next t) ∧ familyOf .txFlag = .transmit ∧
    0 < busy.decoders.length ∧ instanceOf .txFlag ≠ some 0 ∧ familyOf .txFlag ≠ .unescape :=
  ⟨⟨_, rfl⟩, rfl, ⟨_, rfl⟩, rfl, by decide, by decide, by decide⟩

theorem witness_InstanceOutcomeIgnoresTheRest :
    instanceOf (.rxFFlagEnd 0) = some 0 ∧
    busy.decoders[0]? = (one (.inFrame [0x41]) [.ok goodFrame]).decoders[0]? ∧
    ∃ t, exec (.rxFFlagEnd 0) busy = .next t := ⟨rfl, rfl, _, rfl⟩

theorem witness_StatelessUnitsDependOnOperandsOnly :
    familyOf (.encodeFrame 0x01 0x03 []) = .encoder ∧ (∃ t, exec (.encodeFrame 0x01 0x03 []) busy = .next t) ∧
    familyOf (.escDec []) = .escaper ∧ familyOf (.fcsGen []) = .fcsEngine ∧
    familyOf (.ctrlBuild (.named .unnumberedInformation)) = .controlBuilder ∧
    ∃ t, exec (.ctrlBuild (.named .unnumberedInformation)) busy = .next t := ⟨rfl, ⟨_, rfl⟩, rfl, rfl, rfl, ⟨_, rfl⟩⟩

theorem witness_InterleavedStreamsDecodeIndependently :
    ∃ s : State, s.requests = ([.octet (.rx 0) 0x7E, .octet (.rx 1) 0x41, .octet (.rx 0) 0x41] : List Request) ++ [] ∧
      (∀ r ∈ ([.octet (.rx 0) 0x7E, .octet (.rx 1) 0x41, .octet (.rx 0) 0x41] : List Request),
        ∃ e b, r = .octet (.rx e) b ∧ e < s.decoders.length) ∧
      s.decoders[1]? = some ⟨.searching, []⟩ := by
  refine ⟨{ State.reset with
    decoders := [Decoder.fresh, Decoder.fresh],
    requests := [.octet (.rx 0) 0x7E, .octet (.rx 1) 0x41, .octet (.rx 0) 0x41] }, rfl, ?_, rfl⟩
  intro r h
  simp only [List.mem_cons, List.not_mem_nil, or_false] at h
  obtain rfl | rfl | rfl := h
  · exact ⟨0, 0x7E, rfl, by decide⟩
  · exact ⟨1, 0x41, rfl, by decide⟩
  · exact ⟨0, 0x41, rfl, by decide⟩

end Sys2Proof.Tests
end

section
/-! PROOFS. The dispatch tables of 30_encoding R55: their rows, no two of one format overlapping but through the
catch-all row, and the obligation about them. -/

namespace Sys2Proof

/-- Each row looks either at the whole octet or at nothing of it, and then it has no further condition (R55). -/
theorem dispatchTable_masks :
    ∀ r ∈ dispatchTable, r.mask = 0xFF#8 ∨ r.mask = 0x00#8 ∧ r.value = 0x00#8 ∧ r.condition = .any := by decide

/-- Each format lists one row of mask 0, its catch-all. -/
theorem dispatchTable_one_catchAll (f : Format) :
    (dispatchTable.filter fun r => decide (r.mask = 0x00#8) && decide (r.format = f)).length = 1 := by
  cases f <;> rfl

/-- What keeps two rows, in try order, from selecting the same octet when both look at all of it: another format, another
value, or an empty accumulator asked for by the one and a non-empty one by the other. -/
abbrev DispatchRow.Apart (r r' : DispatchRow) : Prop :=
  r.format ≠ r'.format ∨ r.value ≠ r'.value ∨ r.condition = .empty ∧ r'.condition = .nonEmpty

theorem dispatchTable_pairwise_apart :
    dispatchTable.Pairwise fun r r' => r.mask = 0xFF#8 → r'.mask = 0xFF#8 → r.Apart r' := by decide

variable {f : Format} {n : Nat} {b : Octet} {r r' : DispatchRow}

theorem DispatchRow.selects_eq_true_of_mask_all (hm : r.mask = 0xFF#8) :
    r.selects f n b = true ↔ r.format = f ∧ b = r.value ∧ r.condition.holds n = true := by
  simp [selects, hm, and_assoc]

theorem DispatchRow.selects_of_catchAll (hm : r.mask = 0x00#8) (hv : r.value = 0x00#8) (hc : r.condition = .any) :
    r.selects f n b = decide (r.format = f) := by
  simp [selects, hm, hv, hc, AccCondition.holds]

/-- An octet selects at most one of two rows that are apart. -/
theorem DispatchRow.Apart.not_selects (h : r.Apart r') (hm : r.mask = 0xFF#8) (hm' : r'.mask = 0xFF#8)
    (hs : r.selects f n b = true) : ¬ r'.selects f n b = true := by
  intro hs'
  obtain ⟨hf, hb, hc⟩ := (selects_eq_true_of_mask_all hm).mp hs
  obtain ⟨hf', hb', hc'⟩ := (selects_eq_true_of_mask_all hm').mp hs'
  obtain h | h | ⟨hempty, hnonEmpty⟩ := h
  · exact h (hf.trans hf'.symm)
  · exact h (hb.symm.trans hb')
  · have hzero : n = 0 := by simpa [AccCondition.holds, hempty] using hc
    have hpos : n ≠ 0 := by simpa [AccCondition.holds, hnonEmpty] using hc'
    exact hpos hzero

theorem mask_all_of_mem_of_mask_ne (hr : r ∈ dispatchTable) (hne : r.mask ≠ 0x00#8) : r.mask = 0xFF#8 :=
  (dispatchTable_masks r hr).resolve_right fun ⟨hzero, _⟩ => hne hzero

theorem length_le_one_of_pairwise_false {α : Type} :
    ∀ {l : List α}, (l.Pairwise fun _ _ => False) → l.length ≤ 1
  | [], _ => Nat.zero_le 1
  | [_], _ => Nat.le_refl 1
  | _ :: _ :: _, h => (List.rel_of_pairwise_cons h (List.mem_cons_self ..)).elim

variable (f n b)

/-- Besides the catch-all row, an octet selects at most one row. -/
theorem selected_masked_length_le_one :
    ((dispatchTable.filter (DispatchRow.selects f n b)).filter fun r => r.mask ≠ 0#8).length ≤ 1 := by
  apply length_le_one_of_pairwise_false
  rw [List.pairwise_filter, List.pairwise_filter]
  refine dispatchTable_pairwise_apart.imp_of_mem fun hr hr' hapart hs hs' hne hne' => ?_
  have hm := mask_all_of_mem_of_mask_ne hr (of_decide_eq_true hne)
  have hm' := mask_all_of_mem_of_mask_ne hr' (of_decide_eq_true hne')
  exact (hapart hm hm').not_selects hm hm' hs hs'

/-- The catch-all row of the format in force is selected by every octet, and no other row of mask 0 is. -/
theorem selected_catchAll_length :
    ((dispatchTable.filter (DispatchRow.selects f n b)).filter fun r => r.mask = 0#8).length = 1 := by
  rw [List.filter_filter, ← dispatchTable_one_catchAll f]
  refine congrArg List.length (List.filter_congr fun r hr => ?_)
  obtain hm | ⟨hm, hv, hc⟩ := dispatchTable_masks r hr
  · simp [hm]
  · rw [DispatchRow.selects_of_catchAll hm hv hc]

/-- Settles O3: the choice of each format's table, then the two counts of the rows an octet selects. -/
theorem dispatchTablesSelectOneRow : Obligations.DispatchTablesSelectOneRow := by
  intro n d b
  exact ⟨decodeOctet_rxSearching n d b, decodeOctet_rxInFrame n d b, decodeOctet_rxEscapePending n d b,
    decodeOctet_tx n d b, decodeOctet_uxPlain n d b, decodeOctet_uxEscaped n d b, rfl,
    fun f => ⟨selected_masked_length_le_one f n b, selected_catchAll_length f n b⟩⟩

end Sys2Proof
end

section
/-! PROOFS. The octet transform and the encode direction of the byte escaper (40_byte_escaper R58 to R63). -/

namespace Sys2Proof.Machine

/-! ## The octet transform (R58, R59) -/

theorem exec_escv (b : Octet) (s : State) : exec (.escv b) s = .next (giveReply (.octet (escapeValue b)) s) := rfl

/-- R59 (a). -/
theorem escapeValue_involutive : Function.Involutive escapeValue := by
  intro b
  rw [escapeValue, escapeValue, BitVec.xor_assoc, BitVec.xor_self, BitVec.xor_zero]

/-- R59 (b): bit 5 differs. -/
theorem escapeValue_ne_self (b : Octet) : escapeValue b ≠ b := by
  intro h
  have hbit : (escapeValue b).getLsbD 5 = b.getLsbD 5 := congrArg (BitVec.getLsbD · 5) h
  simp [escapeValue] at hbit

/-- R59 (c). -/
theorem escapeValue_flag : escapeValue FLAG = ESCAPED_FLAG := rfl

theorem escapeValue_escape : escapeValue ESCAPE = ESCAPED_ESCAPE := rfl

/-- R59 (d). -/
theorem isEscapedValue_iff (b : Octet) :
    isEscapedValue b = true ↔ b = escapeValue ESCAPE ∨ b = escapeValue FLAG := by
  rw [escapeValue_escape, escapeValue_flag, isEscapedValue, Bool.or_eq_true, beq_iff_eq, beq_iff_eq]

/-- Settles O34: the answer of `ESCV`, then R59 (a) to (d); bijectivity comes from the involution. -/
theorem escapeValueIsSelfInverse : Obligations.EscapeValueIsSelfInverse :=
  ⟨fun s b => exec_escv b s,
    fun b => ⟨rfl, escapeValue_involutive b, escapeValue_ne_self b, isEscapedValue_iff b⟩,
    escapeValue_flag, escapeValue_escape, escapeValue_involutive.bijective⟩

/-! ## The rows of the encode direction (R60 to R62) -/

theorem exec_txFlag (s : State) : exec .txFlag s = .next (txPut (escapePair FLAG) s) :=
  runTx_eq_next.mpr ⟨rfl, rfl⟩

theorem exec_txEscape (s : State) : exec .txEscape s = .next (txPut (escapePair ESCAPE) s) :=
  runTx_eq_next.mpr ⟨rfl, rfl⟩

theorem exec_txLiteral {b : Octet} (hflag : b ≠ FLAG) (hescape : b ≠ ESCAPE) (s : State) :
    exec (.txLiteral b) s = .next (txPut [b] s) :=
  runTx_eq_next.mpr ⟨by simp [hflag, hescape], rfl⟩

theorem decode_tx_flag (v : View) : decode v (.octet .tx FLAG) = .ok .txFlag :=
  decode_tx FLAG (decodeOctet_tx 0 0 FLAG)

theorem decode_tx_escape (v : View) : decode v (.octet .tx ESCAPE) = .ok .txEscape :=
  decode_tx ESCAPE (decodeOctet_tx 0 0 ESCAPE)

theorem decode_tx_literal {b : Octet} (hflag : b ≠ FLAG) (hescape : b ≠ ESCAPE) (v : View) :
    decode v (.octet .tx b) = .ok (.txLiteral b) :=
  decode_tx b (by rw [decodeOctet_tx, if_neg hflag, if_neg hescape])

/-- Settles O35: for each row, what selects it and what it puts on `tx`. -/
theorem transmitRowsPutEscapedOctets : Obligations.TransmitRowsPutEscapedOctets := fun s =>
  ⟨decode_tx_flag (viewOf s), exec_txFlag s, decode_tx_escape (viewOf s), exec_txEscape s,
    fun _ hflag hescape => ⟨decode_tx_literal hflag hescape (viewOf s), exec_txLiteral hflag hescape s⟩⟩

/-! ## The sequence operation (R63) -/

theorem exec_escEnc (x : List Octet) (s : State) :
    exec (.escEnc x) s = .next (giveReply (.octets (escapeEncode x)) s) := rfl

/-- Each octet is encoded alone, whatever stands around it. -/
theorem escapeEncode_eq_flatMap (x : List Octet) : escapeEncode x = x.flatMap escapeOctet := by
  induction x with
  | nil => rfl
  | cons b rest ih => rw [escapeEncode, ih, List.flatMap_cons]

theorem escapeEncode_append (x y : List Octet) : escapeEncode (x ++ y) = escapeEncode x ++ escapeEncode y := by
  simp only [escapeEncode_eq_flatMap, List.flatMap_append]

/-- Settles O36: `ESC.ENC` is the `flatMap` of what the encode direction emits for one octet, and so keeps concatenation. -/
theorem escapeEncodeReplacesReservedOctets : Obligations.EscapeEncodeReplacesReservedOctets := by
  refine ⟨fun s x => ?_, rfl, escapeEncode_append⟩
  rw [exec_escEnc, escapeEncode_eq_flatMap]
  rfl

end Sys2Proof.Machine
end

section
/-! PROOFS. The field of the FCS engine: its four octets and their comparison (41_fcs_engine R71, R72, R75 (b)). -/

namespace Sys2Proof.Machine

/-! ## The generated field (R71) -/

theorem exec_fcsGen (data : List Octet) (s : State) :
    exec (.fcsGen data) s = .next (giveReply (.octets (fcsGenerate hardware data)) s) := rfl

/-- 20_memory R31: the octets of a 32-bit value join to it, the last one most significant. -/
theorem append_octets_of_word (c : Word32) :
    c.extractLsb' 24 8 ++ c.extractLsb' 16 8 ++ c.extractLsb' 8 8 ++ c.extractLsb' 0 8 = c := by
  rw [BitVec.extractLsb'_append_extractLsb'_eq_extractLsb' (start₁ := 16) (len₁ := 8) rfl,
    BitVec.extractLsb'_append_extractLsb'_eq_extractLsb' (start₁ := 8) (len₁ := 8) rfl,
    BitVec.extractLsb'_append_extractLsb'_eq_extractLsb' (start₁ := 0) (len₁ := 8) rfl]
  exact BitVec.extractLsb'_eq_self

/-- Settles O46: the field is the checksum cut into octets, and these join to it again. -/
theorem fcsGenerateIsLeastSignificantFirst : Obligations.FcsGenerateIsLeastSignificantFirst :=
  ⟨fun s data => exec_fcsGen data s,
    fun cfg data => ⟨_, _, _, _, rfl, (append_octets_of_word (cfg.crc32 data)).symm⟩⟩

/-! ## The comparison (R72) -/

theorem exec_fcsChk (data : List Octet) (f0 f1 f2 f3 : Octet) (s : State) :
    exec (.fcsChk data f0 f1 f2 f3) s =
      .next (giveReply (.verdict (fcsCheck hardware data [f0, f1, f2, f3])) s) := rfl

variable {cfg : Config} {data f : List Octet}

theorem fcsCheck_of_eq (h : fcsGenerate cfg data = f) : fcsCheck cfg data f = .isMatch :=
  if_pos h

theorem fcsCheck_of_ne (h : fcsGenerate cfg data ≠ f) : fcsCheck cfg data f = .mismatch :=
  if_neg h

/-- R75 (b). -/
theorem fcsCheck_fcsGenerate (cfg : Config) (data : List Octet) :
    fcsCheck cfg data (fcsGenerate cfg data) = .isMatch :=
  fcsCheck_of_eq rfl

/-- Settles O47: the verdict by whether the generated field is the one given; on itself the two are equal. -/
theorem fcsCheckComparesAllOctets : Obligations.FcsCheckComparesAllOctets := by
  refine ⟨fun s data f0 f1 f2 f3 => ⟨fun heq => ?_, fun hne => ?_⟩, fcsCheck_fcsGenerate⟩
  · rw [exec_fcsChk, fcsCheck_of_eq heq]
    rfl
  · rw [exec_fcsChk, fcsCheck_of_ne hne]
    rfl

end Sys2Proof.Machine
end

section
/-! PROOFS. The frame encoder: what `ENCODE` puts on `tx` and returns (43_frame_encoder R82). -/

namespace Sys2Proof.Machine

theorem payloadFits_of_unbounded {cfg : Config} (h : cfg.payloadMax = none) (p : List Octet) :
    payloadFits cfg p = true := by
  rw [payloadFits, h]

/-- R82 from the operands: body, checksum of the body, escaping, and a `FLAG` on each side. -/
theorem wireFrame_eq_delimited_body_fcs (cfg : Config) (a : List Octet) (c : Octet) (p : List Octet) :
    wireFrame cfg a c p =
      [FLAG] ++ escapeEncode ((a ++ [c] ++ p) ++ fcsGenerate cfg (a ++ [c] ++ p)) ++ [FLAG] := rfl

theorem exec_encodeFrame (a c : Octet) (p : List Octet) (s : State) :
    exec (.encodeFrame a c p) s =
      .next (giveReply (.octets (wireFrame hardware [a] c p)) (txPut (wireFrame hardware [a] c p) s)) :=
  runEncode_eq_next.mpr ⟨payloadFits_of_unbounded hardware_payloadMax p, rfl⟩

/-- Settles O50: the hardware's payload length is unbounded, so `ENCODE` completes with the wire frame, which is then written
out from the operands. -/
theorem encodePutsOneDelimitedFrame : Obligations.EncodePutsOneDelimitedFrame := by
  intro s a c p
  rw [exec_encodeFrame, wireFrame_eq_delimited_body_fcs]
  rfl

end Sys2Proof.Machine
end

section
/-! PROOFS. The rows of the frame decoder that drop or withhold an octet, or reject it (44_frame_decoder R90 to R92, R94,
R98): what selects each, and what it does to its decoder. -/

namespace Sys2Proof.Machine

variable {s : State} {d : Nat} {b : Octet} {acc : List Octet} {old : List Result}

/-! ## A row on a decoder that exists -/

/-- An octet for a decoder is decoded in the state that decoder is in. -/
theorem decode_rx_viewOf {dec : Decoder} {i : Instr} (hd : s.decoders[d]? = some dec)
    (h : decodeOctet dec.state.format dec.state.accLen d b = some i) : decode (viewOf s) (.octet (.rx d) b) = .ok i :=
  decode_rx d b (by rw [viewOf_decoders, List.getElem?_map, hd, Option.map_some]) h

/-- A step without a result leaves the result stream as it is. -/
theorem putDecoder_no_results (d : Nat) (dec : Decoder) (st : DecoderState) (s : State) :
    putDecoder d dec st [] s = { s with decoders := s.decoders.set d ⟨st, dec.results⟩ } := by
  rw [putDecoder, List.append_nil]

/-- A step that keeps the decoder state and has no result changes nothing at all. -/
theorem putDecoder_same {dec : Decoder} (hd : s.decoders[d]? = some dec) : putDecoder d dec dec.state [] s = s := by
  obtain ⟨hlt, rfl⟩ := List.getElem?_eq_some_iff.mp hd
  rw [putDecoder_no_results, List.set_getElem_self]

/-! ## `SEARCHING` (R90, R91) -/

theorem decode_rx_searching_flag (hd : s.decoders[d]? = some ⟨.searching, old⟩) :
    decode (viewOf s) (.octet (.rx d) FLAG) = .ok (.rxSFlag d) :=
  decode_rx_viewOf hd (decodeOctet_rxSearching 0 d FLAG)

theorem decode_rx_searching_other (hflag : b ≠ FLAG) (hd : s.decoders[d]? = some ⟨.searching, old⟩) :
    decode (viewOf s) (.octet (.rx d) b) = .ok (.rxSOther d b) :=
  decode_rx_viewOf hd ((decodeOctet_rxSearching 0 d b).trans (by rw [if_neg hflag]))

theorem exec_rxSFlag (hd : s.decoders[d]? = some ⟨.searching, old⟩) :
    exec (.rxSFlag d) s = .next { s with decoders := s.decoders.set d ⟨.inFrame [], old⟩ } := by
  rw [← putDecoder_no_results d ⟨.searching, old⟩]
  exact runRow_of_rule hd rfl

theorem exec_rxSOther (hflag : b ≠ FLAG) (hd : s.decoders[d]? = some ⟨.searching, old⟩) :
    exec (.rxSOther d b) s = .next s := by
  have hrule : rowSOther b .searching = some (.ok (.searching, [])) := if_neg hflag
  exact (runRow_of_rule hd hrule).trans (congrArg _ (putDecoder_same hd))

/-- Settles O7: `FLAG` selects the row that opens a frame, and any other octet the row that keeps the decoder. -/
theorem searchingWaitsForFlag : Obligations.SearchingWaitsForFlag := fun _ _ _ hd =>
  ⟨decode_rx_searching_flag hd, exec_rxSFlag hd,
    fun _ hflag => ⟨decode_rx_searching_other hflag hd, exec_rxSOther hflag hd⟩⟩

/-! ## `IN_FRAME` (R92, R94) -/

theorem decode_rx_inFrame_empty_flag (hd : s.decoders[d]? = some ⟨.inFrame [], old⟩) :
    decode (viewOf s) (.octet (.rx d) FLAG) = .ok (.rxFFlagEmpty d) :=
  decode_rx_viewOf hd (decodeOctet_rxInFrame 0 d FLAG)

theorem decode_rx_inFrame_escape (hd : s.decoders[d]? = some ⟨.inFrame acc, old⟩) :
    decode (viewOf s) (.octet (.rx d) ESCAPE) = .ok (.rxFEscape d) :=
  decode_rx_viewOf hd (decodeOctet_rxInFrame acc.length d ESCAPE)

theorem exec_rxFFlagEmpty (hd : s.decoders[d]? = some ⟨.inFrame [], old⟩) : exec (.rxFFlagEmpty d) s = .next s :=
  (runRow_of_rule (rule := rowFFlagEmpty) hd rfl).trans (congrArg _ (putDecoder_same hd))

theorem exec_rxFEscape (hd : s.decoders[d]? = some ⟨.inFrame acc, old⟩) :
    exec (.rxFEscape d) s = .next { s with decoders := s.decoders.set d ⟨.escapePending acc, old⟩ } := by
  rw [← putDecoder_no_results d ⟨.inFrame acc, old⟩]
  exact runRow_of_rule hd rfl

/-- Settles O8: the row selected keeps both the decoder state and the stream. -/
theorem emptyFrameFlagChangesNothing : Obligations.EmptyFrameFlagChangesNothing := fun _ _ _ hd =>
  ⟨decode_rx_inFrame_empty_flag hd, exec_rxFFlagEmpty hd⟩

/-- Settles O10: the row selected changes the tag alone, and the tag is what the escape-pending condition reads. -/
theorem inFrameEscapeIsWithheld : Obligations.InFrameEscapeIsWithheld := fun _ _ _ _ hd =>
  ⟨decode_rx_inFrame_escape hd, exec_rxFEscape hd, rfl, rfl⟩

/-! ## `ESCAPE_PENDING` (R98) -/

theorem decode_rx_escapePending_other (h5D : b ≠ ESCAPED_ESCAPE) (h5E : b ≠ ESCAPED_FLAG) (hflag : b ≠ FLAG)
    (hd : s.decoders[d]? = some ⟨.escapePending acc, old⟩) :
    decode (viewOf s) (.octet (.rx d) b) = .ok (.rxEOther d b) :=
  decode_rx_viewOf hd
    ((decodeOctet_rxEscapePending acc.length d b).trans (by rw [if_neg h5D, if_neg h5E, if_neg hflag]))

/-- R98: neither a value that an `ESCAPE` may precede nor a `FLAG`, so the row's rule rejects. -/
theorem rowEOther_rejects (h5D : b ≠ ESCAPED_ESCAPE) (h5E : b ≠ ESCAPED_FLAG) (hflag : b ≠ FLAG) :
    rowEOther b (.escapePending acc) = some (.ok (.searching, [.rej .malformedEscape])) := by
  have hesc : ¬ isEscapedValue b = true := by
    rw [isEscapedValue_iff, escapeValue_escape, escapeValue_flag]
    exact not_or.mpr ⟨h5D, h5E⟩
  exact if_neg (not_or.mpr ⟨hesc, hflag⟩)

theorem exec_rxEOther (h5D : b ≠ ESCAPED_ESCAPE) (h5E : b ≠ ESCAPED_FLAG) (hflag : b ≠ FLAG)
    (hd : s.decoders[d]? = some ⟨.escapePending acc, old⟩) :
    exec (.rxEOther d b) s =
      .next { s with decoders := s.decoders.set d ⟨.searching, old ++ [.rej .malformedEscape]⟩ } :=
  runRow_of_rule hd (rowEOther_rejects h5D h5E hflag)

/-- Settles O14: the octet selects the rejecting row, and `SEARCHING` has no escape pending. -/
theorem otherOctetAfterEscapeRejects : Obligations.OtherOctetAfterEscapeRejects :=
  fun _ _ _ _ _ h5D h5E hflag hd =>
    ⟨decode_rx_escapePending_other h5D h5E hflag hd, exec_rxEOther h5D h5E hflag hd, rfl, rfl⟩

end Sys2Proof.Machine
end

section
/-! PROOFS. Decoding inverts encoding and encoding inverts decoding, on the instructions that are well formed and in
force (30_encoding R52, R55): the row each port selects for an octet, when no row is read, and the obligations about
both. -/

namespace Sys2Proof

open Sys2Proof.Machine

/-! ## The row an octet selects -/

/-- The row of a received octet, by the state of its decoder. -/
def rxRow (d : Nat) (b : Octet) : DecoderState → Instr
  | .searching => if b = FLAG then .rxSFlag d else .rxSOther d b
  | .inFrame acc =>
    if b = FLAG then (if acc = [] then .rxFFlagEmpty d else .rxFFlagEnd d)
    else if b = ESCAPE then .rxFEscape d else .rxFLiteral d b
  | .escapePending _ =>
    if b = ESCAPED_ESCAPE then .rxEEscaped5D d else if b = ESCAPED_FLAG then .rxEEscaped5E d
    else if b = FLAG then .rxEFlag d else .rxEOther d b

/-- The row of an octet in the encode direction. -/
def txRow (b : Octet) : Instr :=
  if b = FLAG then .txFlag else if b = ESCAPE then .txEscape else .txLiteral b

/-- The row of an octet in the decode direction, by the format in force. -/
def uxRow (b : Octet) : UxFormat → Instr
  | .plain => if b = ESCAPE then .uxPEscape else .uxPCopy b
  | .escaped => if b = ESCAPED_ESCAPE then .uxEEscaped5D else if b = ESCAPED_FLAG then .uxEEscaped5E else .uxEBad b

variable {v : View} {d : Nat} {b : Octet} {st : DecoderState} {i : Instr}

theorem decodeOctet_rx (d : Nat) (b : Octet) (st : DecoderState) :
    decodeOctet st.format st.accLen d b = some (rxRow d b st) := by
  cases st with
  | searching => exact decodeOctet_rxSearching 0 d b
  | inFrame acc =>
    simp only [DecoderState.format, DecoderState.accLen, decodeOctet_rxInFrame, rxRow, List.length_eq_zero_iff]
  | escapePending acc => exact decodeOctet_rxEscapePending acc.length d b

theorem decodeOctet_ux (b : Octet) (f : UxFormat) : decodeOctet f.format 0 0 b = some (uxRow b f) := by
  cases f with
  | plain => exact decodeOctet_uxPlain 0 0 b
  | escaped => exact decodeOctet_uxEscaped 0 0 b

theorem decode_rx_of_state (hv : v.decoders[d]? = some st) : decode v (.octet (.rx d) b) = .ok (rxRow d b st) :=
  decode_rx d b hv (decodeOctet_rx d b st)

theorem decode_rx_of_absent (hv : v.decoders[d]? = none) : decode v (.octet (.rx d) b) = .error .noSuchDecoder := by
  simp [decode, decodePort, hv, Except.map]

theorem decode_tx_eq (v : View) (b : Octet) : decode v (.octet .tx b) = .ok (txRow b) :=
  decode_tx b (decodeOctet_tx 0 0 b)

theorem decode_ux_eq (v : View) (b : Octet) : decode v (.octet .ux b) = .ok (uxRow b v.ux) :=
  decode_ux b (decodeOctet_ux b v.ux)

theorem decode_endOfInput_escaped (hv : v.ux = .escaped) : decode v .endOfInput = .ok .uxEEnd := by
  simp [decode, decodePort, decodeOctets, hv, UxFormat.format, Except.map]

theorem decode_endOfInput_plain (hv : v.ux = .plain) : decode v .endOfInput = .error .noOctet := by
  simp [decode, decodePort, decodeOctets, hv, UxFormat.format, Except.map]

theorem decode_rx_eq_ok :
    decode v (.octet (.rx d) b) = .ok i ↔ ∃ st, v.decoders[d]? = some st ∧ rxRow d b st = i := by
  cases hv : v.decoders[d]? with
  | none => simp [decode_rx_of_absent hv]
  | some st => simp [decode_rx_of_state hv]

theorem decode_endOfInput_eq_ok : decode v .endOfInput = .ok i ↔ v.ux = .escaped ∧ i = .uxEEnd := by
  cases hv : v.ux with
  | plain => simp [decode_endOfInput_plain hv]
  | escaped => simp [decode_endOfInput_escaped hv, eq_comm]

/-- The two reasons why no row is read: a decoder that does not exist, and the end of the input in `UX.PLAIN`. -/
theorem decode_eq_error {r : Request} {e : DecodeReject} (h : decode v r = .error e) :
    (∃ d b, r = .octet (.rx d) b ∧ v.decoders[d]? = none ∧ e = .noSuchDecoder) ∨
      r = .endOfInput ∧ v.ux = .plain ∧ e = .noOctet := by
  cases r with
  | octet p b =>
    cases p with
    | rx d =>
      cases hv : v.decoders[d]? with
      | none => exact .inl ⟨d, b, rfl, hv, by simpa [decode_rx_of_absent hv, eq_comm] using h⟩
      | some st => simp [decode_rx_of_state hv] at h
    | tx => simp [decode_tx_eq] at h
    | ux => simp [decode_ux_eq] at h
  | endOfInput =>
    cases hv : v.ux with
    | plain => exact .inr ⟨rfl, rfl, by simpa [decode_endOfInput_plain hv, eq_comm] using h⟩
    | escaped => simp [decode_endOfInput_escaped hv] at h
  | call o => simp [decode_call] at h

/-! ## What is decoded is well formed, in force, and encodes to its request -/

/-- The instruction is well formed, in force under the view, and stands for the request. -/
def StandsFor (v : View) (i : Instr) (r : Request) : Prop :=
  i.wellFormed = true ∧ i.inForce v = true ∧ encode i = r

theorem rxRow_standsFor (hv : v.decoders[d]? = some st) : StandsFor v (rxRow d b st) (.octet (.rx d) b) := by
  cases st with
  | searching =>
    simp only [rxRow]
    split_ifs <;> simp_all [StandsFor, Instr.wellFormed, Instr.inForce, encode]
  | inFrame acc =>
    cases acc <;> simp only [rxRow] <;>
      split_ifs <;> simp_all [StandsFor, Instr.wellFormed, Instr.inForce, encode, DecoderState.format]
  | escapePending acc =>
    simp only [rxRow]
    split_ifs <;> simp_all [StandsFor, Instr.wellFormed, Instr.inForce, encode, DecoderState.format]

theorem txRow_standsFor (v : View) (b : Octet) : StandsFor v (txRow b) (.octet .tx b) := by
  unfold txRow
  split_ifs <;> simp_all [StandsFor, Instr.wellFormed, Instr.inForce, encode]

theorem uxRow_standsFor (v : View) (b : Octet) : StandsFor v (uxRow b v.ux) (.octet .ux b) := by
  cases hv : v.ux <;> unfold uxRow <;>
    split_ifs <;> simp_all [StandsFor, Instr.wellFormed, Instr.inForce, encode]

theorem toInstr_standsFor (v : View) (o : Operation) : StandsFor v o.toInstr (.call o) := by
  cases o <;> exact ⟨rfl, rfl, rfl⟩

/-- Settles O2: by what the request presents; each port's row stands for the octet, an operation for its call. -/
theorem decodedInstructionEncodesBack : Obligations.DecodedInstructionEncodesBack := by
  intro v r i h
  cases r with
  | octet p b =>
    cases p with
    | rx d =>
      obtain ⟨st, hv, rfl⟩ := decode_rx_eq_ok.mp h
      exact rxRow_standsFor hv
    | tx =>
      rw [decode_tx_eq] at h
      cases h
      exact txRow_standsFor v b
    | ux =>
      rw [decode_ux_eq] at h
      cases h
      exact uxRow_standsFor v b
  | endOfInput =>
    obtain ⟨hux, rfl⟩ := decode_endOfInput_eq_ok.mp h
    exact ⟨rfl, beq_iff_eq.mpr hux, rfl⟩
  | call o =>
    cases h
    exact toInstr_standsFor v o

/-! ## An instruction that is well formed and in force is decoded from its encoding -/

/-- The decoder state that a receive row needs is one in which its own octet selects it. -/
theorem decode_encode_receive (hfam : familyOf i = .receive d) (hwf : i.wellFormed = true) (hf : i.inForce v = true) :
    decode v (encode i) = .ok i := by
  cases i
  case rxSFlag | rxSOther =>
    exact decode_rx_eq_ok.mpr ⟨_, by simpa [Instr.inForce] using hf, by simp_all [rxRow, Instr.wellFormed]⟩
  case rxFFlagEmpty =>
    exact decode_rx_eq_ok.mpr ⟨_, by simpa [Instr.inForce] using hf, by simp [rxRow]⟩
  case rxFFlagEnd =>
    simp only [Instr.inForce] at hf
    split at hf
    · exact decode_rx_eq_ok.mpr ⟨_, ‹_›, by simp [rxRow]⟩
    · cases hf
  case rxFEscape | rxFLiteral | rxEEscaped5D | rxEEscaped5E | rxEFlag | rxEOther =>
    obtain ⟨st, hv, hst⟩ := Option.map_eq_some_iff.mp (beq_iff_eq.mp hf)
    cases st <;> cases hst
    exact decode_rx_eq_ok.mpr ⟨_, hv, by simp_all [rxRow, Instr.wellFormed]⟩
  all_goals cases hfam

theorem decode_encode_unescape (hfam : familyOf i = .unescape) (hwf : i.wellFormed = true) (hf : i.inForce v = true) :
    decode v (encode i) = .ok i := by
  cases i
  case uxEEnd => exact decode_endOfInput_escaped (beq_iff_eq.mp hf)
  case uxPEscape | uxPCopy | uxEEscaped5D | uxEEscaped5E | uxEBad =>
    refine (decode_ux_eq v _).trans (congrArg _ ?_)
    rw [show v.ux = _ from beq_iff_eq.mp hf]
    simp_all [uxRow, Instr.wellFormed]
  all_goals cases hfam

theorem decode_encode_transmit (hfam : familyOf i = .transmit) (hwf : i.wellFormed = true) :
    decode v (encode i) = .ok i := by
  cases i
  case txFlag | txEscape | txLiteral =>
    refine (decode_tx_eq v _).trans (congrArg _ ?_)
    simp_all [txRow, Instr.wellFormed]
  all_goals cases hfam

/-- Settles O1: rows by the direction they belong to; an operation's call names it. -/
theorem decodeOfEncodeGivesInstruction : Obligations.DecodeOfEncodeGivesInstruction := by
  intro v i hwf hf
  cases i
  case rxSFlag | rxSOther | rxFFlagEmpty | rxFFlagEnd | rxFEscape | rxFLiteral | rxEEscaped5D | rxEEscaped5E |
      rxEFlag | rxEOther =>
    exact decode_encode_receive rfl hwf hf
  case txFlag | txEscape | txLiteral => exact decode_encode_transmit rfl hwf
  case uxPEscape | uxPCopy | uxEEscaped5D | uxEEscaped5E | uxEBad | uxEEnd => exact decode_encode_unescape rfl hwf hf
  all_goals rfl

/-- Settles O4: each word under the row of its format. -/
theorem sampleWordsDecode : Obligations.SampleWordsDecode :=
  ⟨decode_rx_of_state (st := .searching) rfl, decode_rx_of_state (st := .searching) rfl,
    decode_rx_of_state (st := .inFrame []) rfl, decode_rx_of_state (st := .inFrame [0x01#8]) rfl,
    decode_rx_of_state (st := .inFrame [0x01#8]) rfl, decode_rx_of_state (st := .escapePending [0x01#8]) rfl,
    decode_tx_eq _ _, decode_ux_eq _ _, decode_endOfInput_escaped rfl⟩

end Sys2Proof
end

section
/-! PROOFS. `STEP` as a table (44_frame_decoder R89 to R98): the value of each row, what an answer of `STEP` can be,
when it refuses, and the obligations that follow from one step. -/

namespace Sys2Proof.Machine

variable {cfg : Config} {st st' : DecoderState} {acc : List Octet} {b : Octet} {rs : List Result} {e : Refusal}

/-! ## The rows -/

theorem isEscapedValue_eq_false (h5D : b ≠ ESCAPED_ESCAPE) (h5E : b ≠ ESCAPED_FLAG) : isEscapedValue b = false := by
  simp [isEscapedValue, h5D, h5E]

@[simp] theorem stepDecoder_searching_flag (cfg : Config) :
    stepDecoder cfg .searching FLAG = .ok (.inFrame [], []) := rfl

theorem stepDecoder_searching_other (hflag : b ≠ FLAG) : stepDecoder cfg .searching b = .ok (.searching, []) :=
  if_neg hflag

@[simp] theorem stepDecoder_inFrame_nil_flag (cfg : Config) :
    stepDecoder cfg (.inFrame []) FLAG = .ok (.inFrame [], []) := rfl

theorem stepDecoder_inFrame_flag (hacc : acc ≠ []) :
    stepDecoder cfg (.inFrame acc) FLAG = .ok (.inFrame [], [validateContent cfg acc]) := by
  cases acc with
  | nil => exact absurd rfl hacc
  | cons x acc => rfl

@[simp] theorem stepDecoder_inFrame_escape (cfg : Config) (acc : List Octet) :
    stepDecoder cfg (.inFrame acc) ESCAPE = .ok (.escapePending acc, []) := by
  cases acc <;> rfl

theorem stepDecoder_inFrame_literal (hflag : b ≠ FLAG) (hesc : b ≠ ESCAPE) :
    stepDecoder cfg (.inFrame acc) b = appendInFrame cfg acc b :=
  (if_neg hflag).trans (if_neg hesc)

theorem stepDecoder_escapePending_escaped (hb : isEscapedValue b = true) :
    stepDecoder cfg (.escapePending acc) b = appendInFrame cfg acc (escapeValue b) :=
  if_pos hb

@[simp] theorem stepDecoder_escapePending_flag (cfg : Config) (acc : List Octet) :
    stepDecoder cfg (.escapePending acc) FLAG = .ok (.inFrame [], [.rej .malformedEscape]) := rfl

theorem stepDecoder_escapePending_other (hb : isEscapedValue b = false) (hflag : b ≠ FLAG) :
    stepDecoder cfg (.escapePending acc) b = .ok (.searching, [.rej .malformedEscape]) :=
  (if_neg (ne_true_of_eq_false hb)).trans (if_neg hflag)

/-- Settles O18: the rows one by one; with an unbounded accumulator an append is never refused. -/
theorem stepFollowsTransitionTable : Obligations.StepFollowsTransitionTable := fun cfg acc _ hcap =>
  ⟨stepDecoder_searching_flag cfg, stepDecoder_searching_other, stepDecoder_inFrame_nil_flag cfg,
    stepDecoder_inFrame_flag,
    stepDecoder_inFrame_escape cfg acc,
    fun hflag hesc => (stepDecoder_inFrame_literal hflag hesc).trans (appendInFrame_unbounded hcap acc _),
    (stepDecoder_escapePending_escaped rfl).trans (appendInFrame_unbounded hcap acc _),
    (stepDecoder_escapePending_escaped rfl).trans (appendInFrame_unbounded hcap acc _),
    stepDecoder_escapePending_flag cfg acc,
    fun h5D h5E hflag => stepDecoder_escapePending_other (isEscapedValue_eq_false h5D h5E) hflag⟩

/-! ## What one step can answer -/

/-- The answers of `STEP`, one constructor for each transition rule: state, octet, next state, results. The octet of
an escape pair is given by the reserved octet it stands for. -/
inductive StepCase (cfg : Config) : DecoderState → Octet → DecoderState → List Result → Prop
  | opens : StepCase cfg .searching FLAG (.inFrame []) []
  | ignores {b : Octet} (hflag : b ≠ FLAG) : StepCase cfg .searching b .searching []
  | reopens : StepCase cfg (.inFrame []) FLAG (.inFrame []) []
  | validates {acc : List Octet} (hacc : acc ≠ []) :
      StepCase cfg (.inFrame acc) FLAG (.inFrame []) [validateContent cfg acc]
  | withholds (acc : List Octet) : StepCase cfg (.inFrame acc) ESCAPE (.escapePending acc) []
  | appends {acc : List Octet} {b : Octet} (hflag : b ≠ FLAG) (hesc : b ≠ ESCAPE) :
      StepCase cfg (.inFrame acc) b (.inFrame (acc ++ [b])) []
  | unescapes {acc : List Octet} {x : Octet} (hx : x = FLAG ∨ x = ESCAPE) :
      StepCase cfg (.escapePending acc) (escapeValue x) (.inFrame (acc ++ [x])) []
  | rejectsAtFlag (acc : List Octet) :
      StepCase cfg (.escapePending acc) FLAG (.inFrame []) [.rej .malformedEscape]
  | rejects (acc : List Octet) {b : Octet} (hflag : b ≠ FLAG) :
      StepCase cfg (.escapePending acc) b .searching [.rej .malformedEscape]

/-- A valid escaped value is the transform of the reserved octet it stands for. -/
theorem reserved_of_isEscapedValue (hb : isEscapedValue b = true) : escapeValue b = FLAG ∨ escapeValue b = ESCAPE := by
  obtain rfl | rfl := (isEscapedValue_iff b).mp hb
  · exact .inr (escapeValue_involutive ESCAPE)
  · exact .inl (escapeValue_involutive FLAG)

theorem stepCase_of_stepDecoder (h : stepDecoder cfg st b = .ok (st', rs)) : StepCase cfg st b st' rs := by
  cases st with
  | searching =>
    by_cases hflag : b = FLAG
    · subst hflag
      cases h
      exact .opens
    · rw [stepDecoder_searching_other hflag] at h
      cases h
      exact .ignores hflag
  | inFrame acc =>
    by_cases hflag : b = FLAG
    · subst hflag
      by_cases hacc : acc = []
      · subst hacc
        cases h
        exact .reopens
      · rw [stepDecoder_inFrame_flag hacc] at h
        cases h
        exact .validates hacc
    · by_cases hesc : b = ESCAPE
      · subst hesc
        rw [stepDecoder_inFrame_escape] at h
        cases h
        exact .withholds acc
      · rw [stepDecoder_inFrame_literal hflag hesc, appendInFrame_eq_ok] at h
        obtain ⟨-, rfl, rfl⟩ := h
        exact .appends hflag hesc
  | escapePending acc =>
    cases hb : isEscapedValue b with
    | true =>
      rw [stepDecoder_escapePending_escaped hb, appendInFrame_eq_ok] at h
      obtain ⟨-, rfl, rfl⟩ := h
      conv => arg 3; rw [← escapeValue_involutive b]
      exact .unescapes (reserved_of_isEscapedValue hb)
    | false =>
      by_cases hflag : b = FLAG
      · subst hflag
        cases h
        exact .rejectsAtFlag acc
      · rw [stepDecoder_escapePending_other hb hflag] at h
        cases h
        exact .rejects acc hflag

/-! ## When a step refuses -/

theorem appendInFrame_eq_error :
    appendInFrame cfg acc b = .error e ↔
      e = .accumulatorOverflow ∧ ∃ cap, cfg.accCap = some cap ∧ cap ≤ acc.length := by
  cases hcap : cfg.accCap with
  | none => simp [appendInFrame, accAppend, hcap, Except.map]
  | some cap => by_cases hle : cap ≤ acc.length <;> simp [appendInFrame, accAppend, hcap, hle, Except.map, eq_comm]

/-- R111: exactly an append to a full accumulator of finite capacity is refused. -/
theorem stepDecoder_eq_error :
    stepDecoder cfg st b = .error e ↔
      e = .accumulatorOverflow ∧ ∃ cap acc, cfg.accCap = some cap ∧ cap ≤ acc.length ∧
        (st = .inFrame acc ∧ b ≠ FLAG ∧ b ≠ ESCAPE ∨ st = .escapePending acc ∧ isEscapedValue b = true) := by
  cases st with
  | searching =>
    by_cases hflag : b = FLAG
    · subst hflag
      simp
    · simp [stepDecoder_searching_other hflag]
  | inFrame acc =>
    by_cases hflag : b = FLAG
    · subst hflag
      cases acc <;> simp [stepDecoder_inFrame_flag]
    · by_cases hesc : b = ESCAPE
      · subst hesc
        simp
      · rw [stepDecoder_inFrame_literal hflag hesc, appendInFrame_eq_error]
        simp [hflag, hesc]
  | escapePending acc =>
    cases hb : isEscapedValue b with
    | true =>
      rw [stepDecoder_escapePending_escaped hb, appendInFrame_eq_error]
      simp
    | false =>
      by_cases hflag : b = FLAG
      · subst hflag
        simp
      · simp [stepDecoder_escapePending_other hb hflag]

/-- R105. -/
theorem stepDecoder_unbounded (hcap : cfg.accCap = none) (st : DecoderState) (b : Octet) :
    ∃ st' rs, stepDecoder cfg st b = .ok (st', rs) := by
  cases h : stepDecoder cfg st b with
  | error e =>
    obtain ⟨-, cap, _, hsome, -⟩ := stepDecoder_eq_error.mp h
    rw [hcap] at hsome
    cases hsome
  | ok p => exact ⟨p.1, p.2, rfl⟩

/-! ## Results of one step (R106) -/

theorem StepCase.length_results_le_one (h : StepCase cfg st b st' rs) : rs.length ≤ 1 := by
  cases h <;> simp

theorem StepCase.flag_or_escapePending_of_results (h : StepCase cfg st b st' rs) (hrs : rs ≠ []) :
    b = FLAG ∨ escapePendingFlag st = true := by
  cases h with
  | validates => exact .inl rfl
  | rejectsAtFlag => exact .inl rfl
  | rejects => exact .inr rfl
  | opens | ignores | reopens | withholds | appends | unescapes => exact absurd rfl hrs

/-- A frame is delivered only by the rule that validates a candidate. -/
theorem StepCase.candidate_of_ok (h : StepCase cfg st b st' rs) {f : Frame} (hf : Result.ok f ∈ rs) :
    b = FLAG ∧ ∃ acc, acc ≠ [] ∧ st = .inFrame acc ∧ validateContent cfg acc = .ok f := by
  cases h with
  | validates hacc => exact ⟨rfl, _, hacc, rfl, (List.mem_singleton.mp hf).symm⟩
  | rejectsAtFlag | rejects => cases List.mem_singleton.mp hf
  | opens | ignores | reopens | withholds | appends | unescapes => cases hf

end Sys2Proof.Machine
end

section
/-! PROOFS. `FEED`, the fold of `STEP` (44_frame_decoder R103 to R107): how it splits, that it is total, how many
results it gives, and what a `FLAG` does to it. -/

namespace Sys2Proof.Machine

variable {cfg : Config} {st st' st1 st2 : DecoderState} {b : Octet} {u v w x y : List Octet} {rs rs1 rs2 : List Result}

/-! ## Splitting a stream -/

theorem feedDecoder_singleton (cfg : Config) (st : DecoderState) (b : Octet) :
    feedDecoder cfg st [b] = stepDecoder cfg st b := by
  cases h : stepDecoder cfg st b <;> simp [feedDecoder, h]

/-- Settles O21: by induction on the first part; its octets come first in both calls. -/
theorem feedSplitsAnywhere : Obligations.FeedSplitsAnywhere := by
  intro cfg st st1 x y rs h
  induction x generalizing st rs with
  | nil =>
    cases h
    rw [List.nil_append]
    cases feedDecoder cfg st1 y <;> rfl
  | cons b x ih =>
    obtain ⟨st', r, rs', hstep, hrest, rfl⟩ := feedDecoder_cons_eq_ok.mp h
    rw [List.cons_append, feedDecoder, hstep]
    simp only [ih st' rs' hrest]
    cases feedDecoder cfg st1 y <;> simp [Except.map]

theorem feedDecoder_append (hx : feedDecoder cfg st x = .ok (st1, rs1)) (hy : feedDecoder cfg st1 y = .ok (st2, rs2)) :
    feedDecoder cfg st (x ++ y) = .ok (st2, rs1 ++ rs2) := by
  rw [feedSplitsAnywhere cfg st st1 x y rs1 hx, hy]
  rfl

theorem feedDecoder_append_eq_ok :
    feedDecoder cfg st (x ++ y) = .ok (st2, rs) ↔
      ∃ st1 rs1 rs2, feedDecoder cfg st x = .ok (st1, rs1) ∧ feedDecoder cfg st1 y = .ok (st2, rs2) ∧ rs =
        rs1 ++ rs2 := by
  refine ⟨fun h => ?_, fun ⟨st1, rs1, rs2, hx, hy, hrs⟩ => hrs ▸ feedDecoder_append hx hy⟩
  induction x generalizing st rs with
  | nil => exact ⟨st, [], rs, rfl, h, rfl⟩
  | cons b x ih =>
    obtain ⟨st', r, rs', hstep, hrest, rfl⟩ := feedDecoder_cons_eq_ok.mp h
    obtain ⟨st1, rs1, rs2, hx, hy, rfl⟩ := ih hrest
    exact ⟨st1, r ++ rs1, rs2, feedDecoder_cons_eq_ok.mpr ⟨st', r, rs1, hstep, hx, rfl⟩, hy,
      (List.append_assoc ..).symm⟩

/-! ## Totality (R105, R111) -/

theorem feedDecoder_unbounded (hcap : cfg.accCap = none) (st : DecoderState) (w : List Octet) :
    ∃ st' rs, feedDecoder cfg st w = .ok (st', rs) := by
  induction w generalizing st with
  | nil => exact ⟨st, [], rfl⟩
  | cons b w ih =>
    obtain ⟨st1, r, hstep⟩ := stepDecoder_unbounded hcap st b
    obtain ⟨st2, rs, hrest⟩ := ih st1
    exact ⟨st2, r ++ rs, feedDecoder_cons_eq_ok.mpr ⟨st1, r, rs, hstep, hrest, rfl⟩⟩

/-- Settles O22: no step of an unbounded decoder refuses; a refusal under a capacity is that of an append. -/
theorem onlyFullAccumulatorRefuses : Obligations.OnlyFullAccumulatorRefuses := by
  refine ⟨fun cfg st w hcap => feedDecoder_unbounded hcap st w, fun cfg cap st b e hcap => ?_⟩
  have hesc : isEscapedValue b = true ↔ b = 0x5D#8 ∨ b = 0x5E#8 := isEscapedValue_iff b
  rw [stepDecoder_eq_error, and_congr_right_iff, hcap]
  intro _
  constructor
  · rintro ⟨_, acc, ⟨rfl⟩, hle, ⟨hst, hflag, hescape⟩ | ⟨hst, hb⟩⟩
    · exact .inl ⟨acc, hst, hle, hflag, hescape⟩
    · exact .inr ⟨acc, hst, hle, hesc.mp hb⟩
  · rintro (⟨acc, hst, hle, hflag, hescape⟩ | ⟨acc, hst, hle, hb⟩)
    · exact ⟨cap, acc, rfl, hle, .inl ⟨hst, hflag, hescape⟩⟩
    · exact ⟨cap, acc, rfl, hle, .inr ⟨hst, hesc.mpr hb⟩⟩

/-! ## How many results there are (R106) -/

/-- How many of the octets read since the last result a state vouches for, at most two: every result is paid for by
two. -/
def credit : DecoderState → Nat
  | .searching => 0
  | .inFrame [] => 1
  | .inFrame (_ :: _) => 2
  | .escapePending _ => 2

theorem credit_inFrame_of_ne_nil {acc : List Octet} (hacc : acc ≠ []) : credit (.inFrame acc) = 2 := by
  cases acc with
  | nil => exact absurd rfl hacc
  | cons x acc => rfl

theorem credit_inFrame_pos (acc : List Octet) : 1 ≤ credit (.inFrame acc) := by
  cases acc <;> simp [credit]

theorem StepCase.two_mul_results_add_credit_le (h : StepCase cfg st b st' rs) :
    2 * rs.length + credit st' ≤ credit st + 1 := by
  cases h with
  | opens | ignores | reopens | rejectsAtFlag | rejects => simp [credit]
  | validates hacc => rw [credit_inFrame_of_ne_nil hacc]; rfl
  | withholds acc => simpa [credit] using credit_inFrame_pos acc
  | @appends acc => simpa [credit_inFrame_of_ne_nil] using credit_inFrame_pos acc
  | unescapes => rw [credit_inFrame_of_ne_nil (by simp)]; exact Nat.le_succ 2

theorem two_mul_results_add_credit_le (h : feedDecoder cfg st w = .ok (st', rs)) :
    2 * rs.length + credit st' ≤ credit st + w.length := by
  induction w generalizing st rs with
  | nil =>
    cases h
    simp
  | cons b w ih =>
    obtain ⟨st1, r, rs', hstep, hrest, rfl⟩ := feedDecoder_cons_eq_ok.mp h
    have hfirst := (stepCase_of_stepDecoder hstep).two_mul_results_add_credit_le
    have hlater := ih hrest
    simp only [List.length_append, List.length_cons]
    omega

/-- Settles O23: by the transition rule of the octet; over a stream the results are paid for by the credit. -/
theorem resultsPerOctetAreBounded : Obligations.ResultsPerOctetAreBounded := by
  refine ⟨fun cfg st st' b rs h => ?_, fun cfg st' w rs h => ?_⟩
  · have hcase := stepCase_of_stepDecoder h
    refine ⟨hcase.length_results_le_one, hcase.flag_or_escapePending_of_results, fun f hf => ?_⟩
    obtain ⟨hb, acc, hacc, hst, -⟩ := hcase.candidate_of_ok hf
    exact ⟨hb, acc, hacc, hst⟩
  · have hbound := two_mul_results_add_credit_le h
    simp only [credit] at hbound
    omega

/-! ## What a `FLAG` does (R107, 70_reset_and_hazards R138) -/

theorem stepDecoder_flag (cfg : Config) (st : DecoderState) :
    ∃ rs, stepDecoder cfg st FLAG = .ok (.inFrame [], rs) := by
  cases st with
  | searching => exact ⟨_, stepDecoder_searching_flag cfg⟩
  | inFrame acc => cases acc <;> exact ⟨_, rfl⟩
  | escapePending acc => exact ⟨_, stepDecoder_escapePending_flag cfg acc⟩

theorem inFrame_nil_of_feedDecoder_flag (h : feedDecoder cfg st (u ++ [FLAG]) = .ok (st', rs)) : st' = .inFrame [] := by
  obtain ⟨st1, rs1, rs2, -, hflag, -⟩ := feedDecoder_append_eq_ok.mp h
  obtain ⟨rs3, hstep⟩ := stepDecoder_flag cfg st1
  rw [feedDecoder_singleton, hstep] at hflag
  cases hflag
  rfl

/-- Settles O24: one step by the state, then the stream cut after the `FLAG`. -/
theorem everyFlagReopensFrame : Obligations.EveryFlagReopensFrame := by
  refine ⟨stepDecoder_flag, fun cfg st st' u v rs h => ?_⟩
  obtain rfl := inFrame_nil_of_feedDecoder_flag h
  exact ⟨rfl, feedSplitsAnywhere cfg st _ _ v rs h⟩

theorem feedDecoder_searching_of_flag_not_mem (cfg : Config) (hu : FLAG ∉ u) :
    feedDecoder cfg .searching u = .ok (.searching, []) := by
  induction u with
  | nil => rfl
  | cons b u ih =>
    obtain ⟨hb, hu⟩ := List.ne_and_not_mem_of_not_mem_cons hu
    exact feedDecoder_cons_eq_ok.mpr ⟨_, [], [], stepDecoder_searching_other (Ne.symm hb), ih hu, rfl⟩

/-- Settles O25: the tail is dropped octet by octet, then the `FLAG` opens a frame with no result. -/
theorem joiningMidFrameIsSilent : Obligations.JoiningMidFrameIsSilent := by
  intro cfg u v hu
  have htail := feedDecoder_searching_of_flag_not_mem cfg hu
  have hflag : feedDecoder cfg .searching (u ++ [FLAG]) = .ok (.inFrame [], []) := feedDecoder_append htail rfl
  refine ⟨htail, (feedSplitsAnywhere cfg _ _ _ v _ hflag).trans ?_⟩
  cases feedDecoder cfg (.inFrame []) v <;> rfl

end Sys2Proof.Machine
end

section
/-! PROOFS. Escaped sequences (40_byte_escaper R64 to R67): their shape, the decode direction as a fold over the
transient of one octet, and that the two directions are inverse. -/

namespace Sys2Proof.Machine

variable {b n : Octet} {out good before after l l' w : List Octet} {run run' : UxRun}

/-! ## One octet in the encode direction -/

theorem escapeOctet_of_reserved (h : b = FLAG ∨ b = ESCAPE) : escapeOctet b = [ESCAPE, escapeValue b] := if_pos h

theorem escapeOctet_of_not_reserved (hflag : b ≠ FLAG) (hesc : b ≠ ESCAPE) : escapeOctet b = [b] :=
  if_neg (not_or.mpr ⟨hflag, hesc⟩)

theorem escapeEncode_concat (x : List Octet) (b : Octet) :
    escapeEncode (x ++ [b]) = escapeEncode x ++ escapeOctet b := by
  rw [escapeEncode_append]
  exact congrArg _ (List.append_nil _)

theorem isEscapedValue_escapeValue (h : b = FLAG ∨ b = ESCAPE) : isEscapedValue (escapeValue b) = true := by
  obtain rfl | rfl := h <;> rfl

theorem escape_ne_of_isEscapedValue (h : isEscapedValue b = true) : b ≠ ESCAPE := by
  rintro rfl
  cases h

/-! ## Every `ESCAPE` opens a pair (R64 (c)) -/

theorem wellEscaped_cons_of_ne (hb : b ≠ ESCAPE) (l : List Octet) : wellEscaped (b :: l) = wellEscaped l := by
  cases l with
  | nil => simpa [wellEscaped] using hb
  | cons n l => exact if_neg hb

theorem wellEscaped_pair (hn : isEscapedValue n = true) (l : List Octet) :
    wellEscaped (ESCAPE :: n :: l) = wellEscaped l := by
  simp [wellEscaped, hn]

theorem wellEscaped_append (hl : wellEscaped l = true) (hl' : wellEscaped l' = true) :
    wellEscaped (l ++ l') = true := by
  induction l using wellEscaped.induct with
  | case1 => exact hl'
  | case2 b => exact (wellEscaped_cons_of_ne (by simpa [wellEscaped] using hl) l').trans hl'
  | case3 n l ih =>
    obtain ⟨hn, hl⟩ : isEscapedValue n = true ∧ wellEscaped l = true := by simpa [wellEscaped] using hl
    exact (wellEscaped_pair hn (l ++ l')).trans (ih hl)
  | case4 b n l hb ih =>
    rw [wellEscaped_cons_of_ne hb] at hl
    exact (wellEscaped_cons_of_ne hb _).trans (ih hl)

theorem wellEscaped_escapeOctet (b : Octet) : wellEscaped (escapeOctet b) = true := by
  by_cases hb : b = FLAG ∨ b = ESCAPE
  · rw [escapeOctet_of_reserved hb, wellEscaped_pair (isEscapedValue_escapeValue hb)]
    rfl
  · obtain ⟨hflag, hesc⟩ := not_or.mp hb
    rw [escapeOctet_of_not_reserved hflag hesc, wellEscaped_cons_of_ne hesc]
    rfl

theorem wellEscaped_escapeEncode (x : List Octet) : wellEscaped (escapeEncode x) = true := by
  induction x with
  | nil => rfl
  | cons b x ih => exact wellEscaped_append (wellEscaped_escapeOctet b) ih

/-- In a well escaped sequence a valid escaped value follows each `ESCAPE`. -/
theorem pair_of_wellEscaped {k : Nat} (hl : wellEscaped l = true) (hk : l[k]? = some ESCAPE) :
    l[k + 1]? = some ESCAPED_ESCAPE ∨ l[k + 1]? = some ESCAPED_FLAG := by
  induction l using wellEscaped.induct generalizing k with
  | case1 => cases hk
  | case2 b =>
    cases k with
    | zero => simp [wellEscaped, show b = ESCAPE by simpa using hk] at hl
    | succ k => cases hk
  | case3 n l ih =>
    obtain ⟨hn, hl⟩ : isEscapedValue n = true ∧ wellEscaped l = true := by simpa [wellEscaped] using hl
    match k with
    | 0 => simpa [isEscapedValue] using hn
    | 1 => exact absurd (by simpa using hk) (escape_ne_of_isEscapedValue hn)
    | k + 2 => exact ih hl hk
  | case4 b n l hb ih =>
    rw [wellEscaped_cons_of_ne hb] at hl
    cases k with
    | zero => exact absurd (by simpa using hk) hb
    | succ k => exact ih hl hk

/-! ## Length, and no `FLAG` (R64 (a), (b)) -/

theorem length_escapeEncode (x : List Octet) :
    (escapeEncode x).length = x.length + (x.filter fun b => b = FLAG ∨ b = ESCAPE).length := by
  induction x with
  | nil => rfl
  | cons b x ih =>
    rw [escapeEncode, List.length_append, ih, List.length_cons]
    by_cases hb : b = FLAG ∨ b = ESCAPE
    · rw [escapeOctet_of_reserved hb, List.filter_cons_of_pos (by simpa using hb)]
      simp only [List.length_cons, List.length_nil]
      omega
    · rw [escapeOctet, if_neg hb, List.filter_cons_of_neg (by simpa using hb)]
      simp only [List.length_cons, List.length_nil]
      omega

theorem flag_not_mem_escapeOctet (b : Octet) : FLAG ∉ escapeOctet b := by
  by_cases hb : b = FLAG ∨ b = ESCAPE
  · rw [escapeOctet_of_reserved hb]
    obtain rfl | rfl := hb <;> decide
  · rw [escapeOctet, if_neg hb, List.mem_singleton]
    exact Ne.symm (not_or.mp hb).1

theorem flag_not_mem_escapeEncode (x : List Octet) : FLAG ∉ escapeEncode x := by
  rw [escapeEncode_eq_flatMap, List.mem_flatMap]
  rintro ⟨b, -, hb⟩
  exact flag_not_mem_escapeOctet b hb

/-! ## The decode direction, one octet at a time (R65, R66) -/

/-- What one octet of the input does to the transient of `ESC.DEC`; `none` is the error. -/
def uxNext : UxRun → Octet → Option UxRun
  | ⟨.plain, out⟩, b => some (if b = ESCAPE then ⟨.escaped, out⟩ else ⟨.plain, out ++ [b]⟩)
  | ⟨.escaped, out⟩, b => if isEscapedValue b then some ⟨.plain, out ++ [escapeValue b]⟩ else none

/-- What the end of the input makes of the transient. -/
def uxFinish : UxRun → Option (List Octet)
  | ⟨.plain, out⟩ => some out
  | ⟨.escaped, _⟩ => none

@[simp] theorem uxNext_plain_escape (out : List Octet) : uxNext ⟨.plain, out⟩ ESCAPE = some ⟨.escaped, out⟩ := rfl

theorem uxNext_plain_other (hesc : b ≠ ESCAPE) : uxNext ⟨.plain, out⟩ b = some ⟨.plain, out ++ [b]⟩ := by
  simp [uxNext, hesc]

theorem uxNext_escaped (hb : isEscapedValue b = true) :
    uxNext ⟨.escaped, out⟩ b = some ⟨.plain, out ++ [escapeValue b]⟩ := if_pos hb

theorem uxNext_escaped_bad (hb : isEscapedValue b = false) : uxNext ⟨.escaped, out⟩ b = none :=
  if_neg (ne_true_of_eq_false hb)

theorem uxNext_eq_none (h : uxNext run b = none) : run.format = .escaped ∧ isEscapedValue b = false := by
  obtain ⟨_ | _, out⟩ := run
  · cases h
  · exact ⟨rfl, by simpa [uxNext] using h⟩

/-- Only an `ESCAPE` read in plain format makes the next octet an escaped one. -/
theorem uxNext_to_escaped (h : uxNext run b = some ⟨.escaped, out⟩) : run = ⟨.plain, out⟩ ∧ b = ESCAPE := by
  obtain ⟨_ | _, out'⟩ := run
  · by_cases hesc : b = ESCAPE
    · subst hesc
      cases h
      exact ⟨rfl, rfl⟩
    · rw [uxNext_plain_other hesc] at h
      cases h
  · cases hb : isEscapedValue b <;> simp [uxNext, hb] at h

theorem uxFinish_eq_some (h : uxFinish run = some out) : run = ⟨.plain, out⟩ := by
  obtain ⟨_ | _, out'⟩ := run <;> cases h
  rfl

/-- `ESC.DEC` is the fold of its octets over the transient, ended. -/
theorem escapeDecodeFrom_eq_fold (run : UxRun) (w : List Octet) :
    escapeDecodeFrom run.format run.out w = (w.foldlM uxNext run).bind uxFinish := by
  induction w generalizing run with
  | nil => obtain ⟨_ | _, out⟩ := run <;> rfl
  | cons b w ih =>
    rw [List.foldlM_cons]
    obtain ⟨_ | _, out⟩ := run
    · by_cases hesc : b = ESCAPE
      · simpa [escapeDecodeFrom, hesc] using ih ⟨.escaped, out⟩
      · simpa [escapeDecodeFrom, hesc, uxNext_plain_other hesc] using ih ⟨.plain, out ++ [b]⟩
    · cases hb : isEscapedValue b with
      | true => simpa [escapeDecodeFrom, hb, uxNext_escaped hb] using ih ⟨.plain, out ++ [escapeValue b]⟩
      | false => simp [escapeDecodeFrom, hb, uxNext_escaped_bad hb]

theorem escapeDecode_eq_fold (w : List Octet) : escapeDecode w = (w.foldlM uxNext UxRun.start).bind uxFinish :=
  escapeDecodeFrom_eq_fold UxRun.start w

theorem escapeDecode_eq_some : escapeDecode w = some out ↔ w.foldlM uxNext UxRun.start = some ⟨.plain, out⟩ := by
  rw [escapeDecode_eq_fold, Option.bind_eq_some_iff]
  refine ⟨fun ⟨run, hrun, hfin⟩ => ?_, fun h => ⟨_, h, rfl⟩⟩
  rw [hrun, uxFinish_eq_some hfin]

/-! ## The directions are inverse (R67) -/

theorem foldlM_uxNext_escapeOctet (out : List Octet) (b : Octet) :
    (escapeOctet b).foldlM uxNext ⟨.plain, out⟩ = some ⟨.plain, out ++ [b]⟩ := by
  by_cases hb : b = FLAG ∨ b = ESCAPE
  · rw [escapeOctet_of_reserved hb, List.foldlM_cons, uxNext_plain_escape, Option.bind_eq_bind, Option.bind_some,
      List.foldlM_cons, uxNext_escaped (isEscapedValue_escapeValue hb), escapeValue_involutive b]
    rfl
  · obtain ⟨hflag, hesc⟩ := not_or.mp hb
    rw [escapeOctet_of_not_reserved hflag hesc, List.foldlM_cons, uxNext_plain_other hesc]
    rfl

theorem foldlM_uxNext_escapeEncode (out x : List Octet) :
    (escapeEncode x).foldlM uxNext ⟨.plain, out⟩ = some ⟨.plain, out ++ x⟩ := by
  induction x generalizing out with
  | nil => simp [escapeEncode]
  | cons b x ih =>
    rw [escapeEncode, List.foldlM_append, foldlM_uxNext_escapeOctet, Option.bind_eq_bind, Option.bind_some, ih]
    simp

theorem escapeDecode_escapeEncode (x : List Octet) : escapeDecode (escapeEncode x) = some x :=
  escapeDecode_eq_some.mpr (foldlM_uxNext_escapeEncode [] x)

theorem escapeEncode_injective : Function.Injective escapeEncode := fun x y h =>
  Option.some.inj (by rw [← escapeDecode_escapeEncode x, ← escapeDecode_escapeEncode y, h])

/-- The input without `FLAG` that leaves a transient: the escaped output, and an `ESCAPE` not yet answered. -/
def uxInput : UxRun → List Octet
  | ⟨.plain, out⟩ => escapeEncode out
  | ⟨.escaped, out⟩ => escapeEncode out ++ [ESCAPE]

theorem uxInput_uxNext (hflag : b ≠ FLAG) (h : uxNext run b = some run') : uxInput run' = uxInput run ++ [b] := by
  obtain ⟨_ | _, out⟩ := run
  · by_cases hesc : b = ESCAPE
    · subst hesc
      cases h
      rfl
    · rw [uxNext_plain_other hesc] at h
      cases h
      simp [uxInput, escapeEncode_concat, escapeOctet_of_not_reserved hflag hesc]
  · cases hb : isEscapedValue b with
    | true =>
      rw [uxNext_escaped hb] at h
      cases h
      simp [uxInput, escapeEncode_concat, escapeOctet_of_reserved (reserved_of_isEscapedValue hb),
        escapeValue_involutive b]
    | false =>
      rw [uxNext_escaped_bad hb] at h
      cases h

theorem uxInput_foldlM (hw : FLAG ∉ w) (h : w.foldlM uxNext run = some run') : uxInput run' = uxInput run ++ w := by
  induction w generalizing run with
  | nil =>
    cases h
    exact (List.append_nil _).symm
  | cons b w ih =>
    obtain ⟨hb, hw⟩ := List.ne_and_not_mem_of_not_mem_cons hw
    obtain ⟨run1, hnext, hrest⟩ := Option.bind_eq_some_iff.mp h
    rw [ih hw hrest, uxInput_uxNext (Ne.symm hb) hnext, List.append_assoc, List.singleton_append]

/-- Settles O38: the fold over an escaped sequence copies it out; a transient knows its input if that has no `FLAG`. -/
theorem escapingRoundTrips : Obligations.EscapingRoundTrips :=
  ⟨escapeDecode_escapeEncode, fun _ _ hw h => uxInput_foldlM hw (escapeDecode_eq_some.mp h)⟩

/-- Settles O37: length and `FLAG` octet by octet, pairs by well-escapedness, injectivity by the inverse. -/
theorem escapedSequenceProperties : Obligations.EscapedSequenceProperties :=
  ⟨fun x =>
      ⟨length_escapeEncode x, flag_not_mem_escapeEncode x, fun _ => pair_of_wellEscaped (wellEscaped_escapeEncode x)⟩,
    escapeEncode_injective⟩

/-! ## When `ESC.DEC` errs (R66) -/

/-- What follows an `ESCAPE` is no valid escaped value: another octet, or nothing. -/
def BadHead (after : List Octet) : Prop := after.head? ≠ some 0x5D#8 ∧ after.head? ≠ some 0x5E#8

theorem badHead_cons : BadHead (b :: w) ↔ isEscapedValue b = false := by
  simp [BadHead, isEscapedValue]

/-- An `ESCAPE` without its second octet fails, at that octet or at the end of the input. -/
theorem fold_escaped_of_badHead (hbad : BadHead after) :
    (after.foldlM uxNext ⟨.escaped, out⟩).bind uxFinish = none := by
  cases after with
  | nil => rfl
  | cons b after => simp [List.foldlM_cons, uxNext_escaped_bad (badHead_cons.mp hbad)]

/-- A failing input has a first `ESCAPE` that opens no pair, unless one stood before it. -/
theorem exists_badHead_of_fold_eq_none (h : (w.foldlM uxNext run).bind uxFinish = none) :
    run.format = .escaped ∧ BadHead w ∨
      ∃ before good after, w = before ++ [ESCAPE] ++ after ∧ before.foldlM uxNext run = some ⟨.plain, good⟩ ∧
        BadHead after := by
  induction w generalizing run with
  | nil =>
    obtain ⟨_ | _, out⟩ := run
    · cases h
    · exact .inl ⟨rfl, by simp [BadHead]⟩
  | cons b w ih =>
    rw [List.foldlM_cons] at h
    cases hnext : uxNext run b with
    | none =>
      obtain ⟨hformat, hb⟩ := uxNext_eq_none hnext
      exact .inl ⟨hformat, badHead_cons.mpr hb⟩
    | some run1 =>
      rw [hnext] at h
      obtain ⟨hformat, hbad⟩ | ⟨before, good, after, rfl, hbefore, hbad⟩ := ih h
      · obtain ⟨_, out⟩ := run1
        obtain rfl : _ = UxFormat.escaped := hformat
        obtain ⟨rfl, rfl⟩ := uxNext_to_escaped hnext
        exact .inr ⟨[], out, w, rfl, rfl, hbad⟩
      · refine .inr ⟨b :: before, good, after, rfl, ?_, hbad⟩
        rw [List.foldlM_cons, hnext]
        exact hbefore

/-- R66: where the input fails. -/
theorem escapeDecode_eq_none :
    escapeDecode w = none ↔
      ∃ before good after, w = before ++ [ESCAPE] ++ after ∧ escapeDecode before = some good ∧ BadHead after := by
  rw [escapeDecode_eq_fold]
  constructor
  · intro h
    obtain ⟨hformat, -⟩ | ⟨before, good, after, hw, hbefore, hbad⟩ := exists_badHead_of_fold_eq_none h
    · cases hformat
    · exact ⟨before, good, after, hw, escapeDecode_eq_some.mpr hbefore, hbad⟩
  · rintro ⟨before, good, after, rfl, hbefore, hbad⟩
    rw [List.foldlM_append, List.foldlM_append, escapeDecode_eq_some.mp hbefore]
    exact fold_escaped_of_badHead hbad

theorem exec_escDec (w : List Octet) (s : State) :
    exec (.escDec w) s = .next (giveReply (escapeDecodeReply (escapeDecode w)) s) := rfl

/-- Settles O39: the reply by what the input decodes to, and where an input fails. -/
theorem escapeDecodeErrsOnBadPairs : Obligations.EscapeDecodeErrsOnBadPairs := by
  refine ⟨fun s w => ⟨fun x h => ?_, fun h => ?_⟩, fun w => escapeDecode_eq_none⟩
  · rw [exec_escDec, h]
    rfl
  · rw [exec_escDec, h]
    rfl

end Sys2Proof.Machine
end

section
/-! PROOFS. The CRC of the FCS engine (41_fcs_engine R69, R70, R75 (c) and (d)): the register update is injective and
linear, so one changed octet shows, and data with its own field leaves a constant. -/

namespace Sys2Proof.Machine

/-! ## The operations (R69, R70) -/

theorem exec_crc32 (data : List Octet) (s : State) :
    exec (.crc32 data) s = .next (giveReply (.word (crc32IsoHdlc data)) s) := rfl

theorem exec_crc32Update (c : Word32) (b : Octet) (s : State) :
    exec (.crc32Update c b) s = .next (giveReply (.word (crcUpdate c b)) s) := rfl

/-- `n` repetitions as a fold over a list of `n` entries. -/
theorem foldl_crcBit {α : Type} (l : List α) (c : Word32) : l.foldl (fun x _ => crcBit x) c = crcBits l.length c := by
  induction l generalizing c with
  | nil => rfl
  | cons a l ih => exact ih (crcBit c)

theorem crcUpdate_eq_foldl (c : Word32) (b : Octet) :
    crcUpdate c b = (List.range 8).foldl (fun x _ => crcBit x) (c ^^^ b.setWidth 32) :=
  (foldl_crcBit (List.range 8) _).symm

/-- The check value of CRC-32/ISO-HDLC, the checksum of the digits 1 to 9. -/
theorem crc32IsoHdlc_check :
    crc32IsoHdlc [0x31#8, 0x32#8, 0x33#8, 0x34#8, 0x35#8, 0x36#8, 0x37#8, 0x38#8, 0x39#8] = 0xCBF43926#32 := by
  simp [crc32IsoHdlc, crcUpdate, crcBits, crcBit]

/-- Settles O43: the answers of the two operations with the eight repetitions as a fold, and the check value. -/
theorem crcOperationsComplete : Obligations.CrcOperationsComplete := by
  refine ⟨fun s data => exec_crc32 data s, fun s c b => ?_, crcUpdate_eq_foldl, crc32IsoHdlc_check⟩
  rw [exec_crc32Update, crcUpdate_eq_foldl]
  rfl

/-! ## One changed octet (R75 (c)) -/

theorem crcBit_of_set {c : Word32} (hc : c.getLsbD 0 = true) : crcBit c = (c >>> 1) ^^^ 0xEDB88320#32 := if_pos hc

theorem crcBit_of_clear {c : Word32} (hc : c.getLsbD 0 = false) : crcBit c = c >>> 1 :=
  if_neg (ne_true_of_eq_false hc)

/-- The polynomial has bit 31, which the shift clears: it tells which of the two cases was taken. -/
theorem getLsbD_31_crcBit (c : Word32) : (crcBit c).getLsbD 31 = c.getLsbD 0 := by
  cases hc : c.getLsbD 0 with
  | false => rw [crcBit_of_clear hc]; simp
  | true => rw [crcBit_of_set hc]; simp

theorem crcBit_injective : Function.Injective crcBit := by
  intro c c' h
  have hzero : c.getLsbD 0 = c'.getLsbD 0 := by rw [← getLsbD_31_crcBit c, ← getLsbD_31_crcBit c', h]
  have hshift : c >>> 1 = c' >>> 1 := by
    cases hc : c.getLsbD 0 with
    | false => rwa [crcBit_of_clear hc, crcBit_of_clear (hzero ▸ hc)] at h
    | true =>
      rw [crcBit_of_set hc, crcBit_of_set (hzero ▸ hc)] at h
      exact (BitVec.xor_left_inj _).mp h
  refine BitVec.eq_of_getLsbD_eq fun k _ => ?_
  cases k with
  | zero => exact hzero
  | succ k => simpa [Nat.add_comm] using congrArg (BitVec.getLsbD · k) hshift

theorem crcBits_injective (n : Nat) : Function.Injective (crcBits n) := by
  induction n with
  | zero => exact Function.injective_id
  | succ n ih => exact ih.comp crcBit_injective

theorem crcUpdate_left_injective (b : Octet) : Function.Injective (crcUpdate · b) := fun _ _ h =>
  (BitVec.xor_left_inj _).mp (crcBits_injective 8 h)

theorem crcUpdate_right_injective (c : Word32) : Function.Injective (crcUpdate c) := by
  intro b b' h
  have hword : b.setWidth 32 = b'.setWidth 32 := (BitVec.xor_right_inj _).mp (crcBits_injective 8 h)
  have hoctet := congrArg (BitVec.setWidth 8) hword
  simpa using hoctet

theorem foldl_crcUpdate_injective (data : List Octet) : Function.Injective (data.foldl crcUpdate) := by
  induction data with
  | nil => exact Function.injective_id
  | cons b data ih => exact ih.comp (crcUpdate_left_injective b)

/-- Settles O44: the register differs after the changed octet, and every later octet keeps the difference. -/
theorem crcDetectsOneChangedOctet : Obligations.CrcDetectsOneChangedOctet := by
  intro data k v old hold hv h
  obtain ⟨hk, rfl⟩ := List.getElem?_eq_some_iff.mp hold
  have hreg : (data.set k v).foldl crcUpdate 0xFFFFFFFF#32 = data.foldl crcUpdate 0xFFFFFFFF#32 :=
    (BitVec.xor_left_inj _).mp h
  have hsplit : data = data.take k ++ data[k] :: data.drop (k + 1) := by simp
  rw [List.set_eq_take_append_cons_drop, if_pos hk] at hreg
  conv at hreg => rhs; rw [hsplit]
  rw [List.foldl_append, List.foldl_append, List.foldl_cons, List.foldl_cons] at hreg
  exact hv (crcUpdate_right_injective _ (foldl_crcUpdate_injective _ hreg))

/-! ## The residue (R75 (d)) -/

/-- A repetition is linear. -/
theorem crcBit_xor (c c' : Word32) : crcBit (c ^^^ c') = crcBit c ^^^ crcBit c' := by
  have hxor : (c ^^^ c').getLsbD 0 = (c.getLsbD 0 ^^ c'.getLsbD 0) := BitVec.getLsbD_xor
  cases hc : c.getLsbD 0 <;> cases hc' : c'.getLsbD 0 <;> rw [hc, hc'] at hxor
  · rw [crcBit_of_clear hxor, crcBit_of_clear hc, crcBit_of_clear hc', BitVec.ushiftRight_xor_distrib]
  · rw [crcBit_of_set hxor, crcBit_of_clear hc, crcBit_of_set hc', BitVec.ushiftRight_xor_distrib, BitVec.xor_assoc]
  · rw [crcBit_of_set hxor, crcBit_of_set hc, crcBit_of_clear hc', BitVec.ushiftRight_xor_distrib]
    ac_rfl
  · rw [crcBit_of_clear hxor, crcBit_of_set hc, crcBit_of_set hc', BitVec.ushiftRight_xor_distrib, BitVec.xor_assoc,
      BitVec.xor_comm (c' >>> 1), ← BitVec.xor_assoc 0xEDB88320#32, BitVec.xor_self, BitVec.zero_xor]

theorem crcBits_xor (n : Nat) (c c' : Word32) : crcBits n (c ^^^ c') = crcBits n c ^^^ crcBits n c' := by
  induction n generalizing c c' with
  | zero => rfl
  | succ n ih => rw [crcBits, crcBit_xor, ih, crcBits, crcBits]

theorem crcBits_add (m n : Nat) (c : Word32) : crcBits (m + n) c = crcBits n (crcBits m c) := by
  induction m generalizing c with
  | zero => rw [Nat.zero_add, crcBits]
  | succ m ih => rw [Nat.add_right_comm, crcBits, crcBits, ih]

/-- Where the low bits are clear the repetitions only shift. -/
theorem crcBits_of_low_bits_clear (n : Nat) (c : Word32) (hc : ∀ k < n, c.getLsbD k = false) :
    crcBits n c = c >>> n := by
  induction n generalizing c with
  | zero => simp [crcBits]
  | succ n ih =>
    have hrest : ∀ k < n, (c >>> 1).getLsbD k = false := fun k hk => by
      rw [BitVec.getLsbD_ushiftRight]
      exact hc (1 + k) (by omega)
    rw [crcBits, crcBit_of_clear (hc 0 (Nat.succ_pos n)), ih (c >>> 1) hrest, ← BitVec.shiftRight_add, Nat.add_comm]

/-- An octet of a word enters the register; the rest of the word waits eight places further on. -/
theorem crcUpdate_low_octet (c w : Word32) : crcUpdate c (w.extractLsb' 0 8) ^^^ (w >>> 8) = crcBits 8 (c ^^^ w) := by
  have hclear : ∀ k < 8, ((w.extractLsb' 0 8).setWidth 32 ^^^ w).getLsbD k = false := fun k hk => by
    simp [hk, show k < 32 by omega]
  have hshift : ((w.extractLsb' 0 8).setWidth 32 ^^^ w) >>> 8 = w >>> 8 := by
    refine BitVec.eq_of_getLsbD_eq fun k _ => ?_
    simp
  calc crcUpdate c (w.extractLsb' 0 8) ^^^ (w >>> 8)
      = crcBits 8 (c ^^^ (w.extractLsb' 0 8).setWidth 32) ^^^ crcBits 8 ((w.extractLsb' 0 8).setWidth 32 ^^^ w) := by
        rw [crcBits_of_low_bits_clear 8 _ hclear, hshift, crcUpdate]
    _ = crcBits 8 (c ^^^ w) := by
        rw [← crcBits_xor, BitVec.xor_assoc, ← BitVec.xor_assoc (BitVec.setWidth 32 _), BitVec.xor_self,
          BitVec.zero_xor]

/-- One more octet of the word `w` taken in, when `k` of its bits have been. -/
theorem crcUpdate_next_octet {r w c : Word32} (k : Nat) (h : r ^^^ (w >>> k) = crcBits k c) :
    crcUpdate r (w.extractLsb' k 8) ^^^ (w >>> (k + 8)) = crcBits (k + 8) c := by
  have hoctet : (w >>> k).extractLsb' 0 8 = w.extractLsb' k 8 := by
    refine BitVec.eq_of_getLsbD_eq fun j hj => ?_
    simp [hj]
  rw [crcBits_add, ← h, ← hoctet, BitVec.shiftRight_add]
  exact crcUpdate_low_octet r (w >>> k)

/-- A word taken in octet by octet, least significant first, is the word taken in at once. -/
theorem foldl_crcUpdate_wordOctets (c w : Word32) : (wordOctets w).foldl crcUpdate c = crcBits 32 (c ^^^ w) := by
  have h0 : c ^^^ (w >>> 0) = crcBits 0 (c ^^^ w) := by rw [BitVec.ushiftRight_zero, crcBits]
  have h32 := crcUpdate_next_octet 24 (crcUpdate_next_octet 16 (crcUpdate_next_octet 8 (crcUpdate_next_octet 0 h0)))
  rwa [BitVec.ushiftRight_eq_zero (Nat.le_refl 32), BitVec.xor_zero] at h32

theorem crcBits_allOnes : crcBits 32 0xFFFFFFFF#32 = 0xDEBB20E3#32 := by
  simp [crcBits, crcBit]

/-- Settles O45: the field is the complement of the register, so the two meet as all ones, whatever the data. -/
theorem crcResidueIsConstant : Obligations.CrcResidueIsConstant := by
  intro data
  have hones : ∀ r : Word32, r ^^^ (r ^^^ 0xFFFFFFFF#32) = 0xFFFFFFFF#32 := fun r => by
    rw [← BitVec.xor_assoc, BitVec.xor_self, BitVec.zero_xor]
  rw [fcsGenerate, hardware_crc32, crc32IsoHdlc, List.foldl_append, foldl_crcUpdate_wordOctets, crc32IsoHdlc, hones,
    crcBits_allOnes]
  rfl

end Sys2Proof.Machine
end

section
/-! PROOFS. Frames: the fields of a content and its validation (44_frame_decoder R99 to R102), and the shape of an
encoded frame (43_frame_encoder R83 to R85). -/

namespace Sys2Proof.Machine

variable {cfg : Config} {a acc data f p : List Octet} {c : Octet}

/-! ## The fields of a content (30_encoding R43) -/

@[simp] theorem length_bodyOf (a : List Octet) (c : Octet) (p : List Octet) :
    (bodyOf a c p).length = a.length + 1 + p.length := by
  simp [bodyOf]
  omega

@[simp] theorem length_fcsGenerate (cfg : Config) (data : List Octet) : (fcsGenerate cfg data).length = FCS_LEN := rfl

theorem addressField_join (ha : a.length = cfg.addrLen) : addressField cfg (bodyOf a c p ++ f) = a := by
  simp [addressField, accSlice, bodyOf, ← ha]

theorem controlField_join (ha : a.length = cfg.addrLen) : controlField cfg (bodyOf a c p ++ f) = c := by
  simp [controlField, accSlice, bodyOf, ← ha]

theorem payloadField_join (ha : a.length = cfg.addrLen) (hf : f.length = FCS_LEN) :
    payloadField cfg (bodyOf a c p ++ f) = p := by
  have hdrop : (bodyOf a c p ++ f).drop (a.length + 1) = p ++ f := by simp [bodyOf]
  have hlen : (bodyOf a c p ++ f).length - FCS_LEN - (a.length + 1) = p.length := by
    rw [List.length_append, length_bodyOf, hf]
    omega
  rw [payloadField, accSlice, ← ha, CTRL_LEN, hlen, hdrop, List.take_left]

theorem fcsField_join (data : List Octet) (hf : f.length = FCS_LEN) : fcsField (data ++ f) = f := by
  have hlen : (data ++ f).length - FCS_LEN = data.length := by
    rw [List.length_append, hf, Nat.add_sub_cancel]
  rw [fcsField, accSlice, hlen, List.drop_left, List.take_of_length_le]
  rw [List.length_append, Nat.add_sub_cancel_left]

/-- Data long enough for an address and a control octet is the body of some operands. -/
theorem exists_bodyOf (h : cfg.addrLen + CTRL_LEN ≤ data.length) :
    ∃ a c p, data = bodyOf a c p ∧ a.length = cfg.addrLen := by
  cases hdrop : data.drop cfg.addrLen with
  | nil =>
    have hlen := List.drop_eq_nil_iff.mp hdrop
    exact absurd (Nat.lt_of_lt_of_le (Nat.lt_succ_self cfg.addrLen) h) (Nat.not_lt.mpr hlen)
  | cons c p =>
    refine ⟨data.take cfg.addrLen, c, p, ?_, List.length_take_of_le (Nat.le_of_succ_le h)⟩
    rw [bodyOf, List.append_assoc, List.singleton_append, ← hdrop, List.take_append_drop]

/-! ## Validation (R99 to R102) -/

theorem minFrame_le_length_join (ha : a.length = cfg.addrLen) (hf : f.length = FCS_LEN) :
    ¬ (bodyOf a c p ++ f).length < cfg.minFrame := by
  simp only [List.length_append, length_bodyOf, Config.minFrame, ha, hf, CTRL_LEN]
  omega

theorem validateContent_short (h : acc.length < cfg.minFrame) : validateContent cfg acc = .rej .frameTooShort :=
    if_pos h

theorem validateContent_match (ha : a.length = cfg.addrLen) (hf : fcsGenerate cfg (bodyOf a c p) = f) :
    validateContent cfg (bodyOf a c p ++ f) = .ok ⟨a, c, p⟩ := by
  have hlen : f.length = FCS_LEN := hf ▸ rfl
  rw [validateContent, if_neg (minFrame_le_length_join ha hlen), addressField_join ha, controlField_join ha,
    payloadField_join ha hlen, fcsField_join _ hlen, fcsCheck_of_eq hf]

theorem validateContent_mismatch (hdata : cfg.addrLen + CTRL_LEN ≤ data.length) (hlen : f.length = FCS_LEN)
    (hf : fcsGenerate cfg data ≠ f) : validateContent cfg (data ++ f) = .rej .checksumMismatch := by
  obtain ⟨a, c, p, rfl, ha⟩ := exists_bodyOf hdata
  rw [validateContent, if_neg (minFrame_le_length_join ha hlen), addressField_join ha, controlField_join ha,
    payloadField_join ha hlen, fcsField_join _ hlen, fcsCheck_of_ne hf]

theorem validateContent_frameContent (ha : a.length = cfg.addrLen) (c : Octet) (p : List Octet) :
    validateContent cfg (frameContent cfg a c p) = .ok ⟨a, c, p⟩ := validateContent_match ha rfl

/-- A candidate of at least `MIN_FRAME` octets whose last four are no checksum of the rest. -/
theorem validateContent_of_fcs_ne (hlen : cfg.minFrame ≤ acc.length)
    (hf : fcsGenerate cfg (acc.take (acc.length - FCS_LEN)) ≠ acc.drop (acc.length - FCS_LEN)) :
    validateContent cfg acc = .rej .checksumMismatch := by
  simp only [Config.minFrame, CTRL_LEN, FCS_LEN] at hlen
  conv => lhs; rw [← List.take_append_drop (acc.length - FCS_LEN) acc]
  refine validateContent_mismatch ?_ ?_ hf
  · simp only [List.length_take, CTRL_LEN, FCS_LEN]
    omega
  · simp only [List.length_drop, FCS_LEN]
    omega

/-- A candidate of at least `MIN_FRAME` octets whose last four are the checksum of the rest. -/
theorem exists_frameContent_of_fcs_eq (hlen : cfg.minFrame ≤ acc.length)
    (hf : fcsGenerate cfg (acc.take (acc.length - FCS_LEN)) = acc.drop (acc.length - FCS_LEN)) :
    ∃ a c p, acc = frameContent cfg a c p ∧ a.length = cfg.addrLen := by
  have hdata : cfg.addrLen + CTRL_LEN ≤ (acc.take (acc.length - FCS_LEN)).length := by
    simp only [Config.minFrame, CTRL_LEN, FCS_LEN] at hlen
    simp only [List.length_take, CTRL_LEN, FCS_LEN]
    omega
  obtain ⟨a, c, p, hbody, ha⟩ := exists_bodyOf hdata
  refine ⟨a, c, p, ?_, ha⟩
  rw [frameContent, ← hbody, hf, List.take_append_drop]

/-- Only the content of a frame validates as that frame. -/
theorem eq_frameContent_of_validateContent (h : validateContent cfg acc = .ok ⟨a, c, p⟩) :
    acc = frameContent cfg a c p ∧ a.length = cfg.addrLen := by
  by_cases hshort : acc.length < cfg.minFrame
  · rw [validateContent_short hshort] at h
    cases h
  · have hlen := Nat.le_of_not_lt hshort
    by_cases hf : fcsGenerate cfg (acc.take (acc.length - FCS_LEN)) = acc.drop (acc.length - FCS_LEN)
    · obtain ⟨a', c', p', rfl, ha⟩ := exists_frameContent_of_fcs_eq hlen hf
      rw [validateContent_frameContent ha] at h
      cases h
      exact ⟨rfl, ha⟩
    · rw [validateContent_of_fcs_ne hlen hf] at h
      cases h

theorem exec_validate (first : Octet) (rest : List Octet) (s : State) :
    exec (.validate first rest) s = .next (giveReply (.result (validateContent hardware (first :: rest))) s) := rfl

/-- The fields of a content whose address is one octet, by their positions. -/
theorem frameContent_positions (cfg : Config) (a c : Octet) (p : List Octet) :
    (frameContent cfg [a] c p)[1]? = some c ∧
      ((frameContent cfg [a] c p).drop 2).take ((frameContent cfg [a] c p).length - 6) = p := by
  have hlen : (frameContent cfg [a] c p).length - 6 = p.length := by
    simp only [frameContent, List.length_append, length_bodyOf, length_fcsGenerate, List.length_singleton, FCS_LEN]
    omega
  refine ⟨rfl, ?_⟩
  rw [hlen]
  exact List.take_left

/-- Settles O30: the candidate by its length, then by its checksum; a match makes it the content of a frame. -/
theorem validateHasThreeOutcomes : Obligations.ValidateHasThreeOutcomes := by
  intro s first rest acc data
  refine ⟨exec_validate first rest s, validateContent_short (cfg := hardware),
    validateContent_of_fcs_ne (cfg := hardware), fun hlen hf => ?_⟩
  obtain ⟨a, c, p, hacc, ha⟩ := exists_frameContent_of_fcs_eq (cfg := hardware) hlen hf
  obtain ⟨a0, rfl⟩ := List.length_eq_one_iff.mp ha
  obtain rfl : first = a0 := (List.cons.inj hacc).1
  obtain ⟨hcontrol, hpayload⟩ := frameContent_positions hardware first c p
  rw [hacc]
  exact ⟨c, hcontrol, by rw [hpayload, validateContent_frameContent ha]⟩

/-! ## The shape of an encoded frame (43_frame_encoder R83 to R85) -/

theorem length_frameContent (ha : a.length = cfg.addrLen) (c : Octet) (p : List Octet) :
    (frameContent cfg a c p).length = cfg.minFrame + p.length := by
  simp only [frameContent, List.length_append, length_bodyOf, length_fcsGenerate, ha, Config.minFrame, CTRL_LEN]
  omega

theorem length_wireFrame (ha : a.length = cfg.addrLen) (c : Octet) (p : List Octet) :
    (wireFrame cfg a c p).length =
      2 + cfg.minFrame + p.length + ((frameContent cfg a c p).filter fun b => b = FLAG ∨ b = ESCAPE).length := by
  rw [wireFrame, List.length_append, List.length_append, length_escapeEncode, length_frameContent ha,
    List.length_singleton]
  omega

theorem wellEscaped_wireFrame (cfg : Config) (a : List Octet) (c : Octet) (p : List Octet) :
    wellEscaped (wireFrame cfg a c p) = true :=
  wellEscaped_append (wellEscaped_append rfl (wellEscaped_escapeEncode _)) rfl

/-- Between two delimiters without `FLAG` inside, `FLAG` stands at the ends only. -/
theorem getElem?_delimited_eq_flag {l : List Octet} (hl : FLAG ∉ l) (k : Nat) :
    ([FLAG] ++ l ++ [FLAG])[k]? = some FLAG ↔ k = 0 ∨ k + 1 = ([FLAG] ++ l ++ [FLAG]).length := by
  cases k with
  | zero => simp
  | succ k =>
    obtain hlt | rfl | hgt := lt_trichotomy k l.length
    · have hne : l[k] ≠ FLAG := fun h => hl (h ▸ List.getElem_mem hlt)
      simpa [List.getElem?_append_left hlt, hlt, hlt.ne] using hne
    · simp
    · simp [hgt.ne', show ¬ k < l.length + 1 by omega]

/-- Settles O51: no `FLAG` inside, well escaped as a whole, and the lengths of content and escaping. -/
theorem encodedFrameShape : Obligations.EncodedFrameShape := by
  intro cfg a c p out
  exact ⟨getElem?_delimited_eq_flag (flag_not_mem_escapeEncode _),
    fun k => pair_of_wellEscaped (wellEscaped_wireFrame cfg a c p), fun ha => length_wireFrame ha c p⟩

/-- Settles O52: equal frames have equal contents, and a content validates as one triple only. -/
theorem encodingIsInjective : Obligations.EncodingIsInjective := by
  intro cfg a a' c c' p p' ha ha' h
  have hcontent : frameContent cfg a c p = frameContent cfg a' c' p' :=
    escapeEncode_injective (List.append_cancel_left (List.append_cancel_right h))
  have hvalid := validateContent_frameContent ha c p
  rw [hcontent, validateContent_frameContent ha' c' p'] at hvalid
  cases hvalid
  exact ⟨rfl, rfl, rfl⟩

end Sys2Proof.Machine
end

section
/-! PROOFS. What feeding a frame delivers (44_frame_decoder R104, R108 to R110): the frame itself when it is whole,
one rejection when an octet of its content was changed, and never the original triple when its inner octets were
altered. -/

namespace Sys2Proof.Machine

variable {cfg : Config} {st st' : DecoderState} {a acc l p u w x : List Octet} {b c : Octet} {rs : List Result}
  {f : Frame}

/-! ## A whole frame -/

/-- An escaped octet is accumulated as the octet it stands for. -/
theorem feedDecoder_escapeOctet (hcap : ∀ cap, cfg.accCap = some cap → acc.length < cap) (b : Octet) :
    feedDecoder cfg (.inFrame acc) (escapeOctet b) = .ok (.inFrame (acc ++ [b]), []) := by
  have happend : appendInFrame cfg acc b = .ok (.inFrame (acc ++ [b]), []) := appendInFrame_eq_ok.mpr ⟨hcap, rfl, rfl⟩
  by_cases hb : b = FLAG ∨ b = ESCAPE
  · have hstep : stepDecoder cfg (.escapePending acc) (escapeValue b) = .ok (.inFrame (acc ++ [b]), []) := by
      rw [stepDecoder_escapePending_escaped (isEscapedValue_escapeValue hb), escapeValue_involutive b, happend]
    rw [escapeOctet_of_reserved hb]
    refine feedDecoder_cons_eq_ok.mpr ⟨_, [], [], stepDecoder_inFrame_escape cfg acc, ?_, rfl⟩
    rw [feedDecoder_singleton, hstep]
  · obtain ⟨hflag, hesc⟩ := not_or.mp hb
    rw [escapeOctet_of_not_reserved hflag hesc, feedDecoder_singleton, stepDecoder_inFrame_literal hflag hesc, happend]

theorem feedDecoder_escapeEncode (hcap : ∀ cap, cfg.accCap = some cap → acc.length + x.length ≤ cap) :
    feedDecoder cfg (.inFrame acc) (escapeEncode x) = .ok (.inFrame (acc ++ x), []) := by
  induction x generalizing acc with
  | nil => rw [List.append_nil]; rfl
  | cons b x ih =>
    simp only [List.length_cons] at hcap
    have hfirst := feedDecoder_escapeOctet (acc := acc) (fun cap h => by have := hcap cap h; omega) b
    have hrest : feedDecoder cfg (.inFrame (acc ++ [b])) (escapeEncode x) = .ok (.inFrame (acc ++ [b] ++ x), []) :=
      ih fun cap h => by
        have := hcap cap h
        simp only [List.length_append, List.length_singleton]
        omega
    rw [← List.append_cons] at hrest
    exact feedDecoder_append hfirst hrest

/-- A delimiter and the escaped octets of a content that the accumulator can hold. -/
theorem feedDecoder_opened (hcap : ∀ cap, cfg.accCap = some cap → x.length ≤ cap)
    (hflag : stepDecoder cfg st FLAG = .ok (.inFrame [], rs)) :
    feedDecoder cfg st ([FLAG] ++ escapeEncode x) = .ok (.inFrame x, rs) := by
  have hbody := feedDecoder_escapeEncode (cfg := cfg) (acc := []) (x := x) (by simpa using hcap)
  exact feedDecoder_cons_eq_ok.mpr ⟨_, rs, [], hflag, hbody, (List.append_nil rs).symm⟩

/-- The whole frame: what the opening `FLAG` gives, and then the verdict on the content. -/
theorem feedDecoder_delimited (hcap : ∀ cap, cfg.accCap = some cap → x.length ≤ cap) (hx : x ≠ [])
    (hflag : stepDecoder cfg st FLAG = .ok (.inFrame [], rs)) :
    feedDecoder cfg st ([FLAG] ++ escapeEncode x ++ [FLAG]) = .ok (.inFrame [], rs ++ [validateContent cfg x]) := by
  refine feedDecoder_append (feedDecoder_opened hcap hflag) ?_
  rw [feedDecoder_singleton, stepDecoder_inFrame_flag hx]

theorem frameContent_ne_nil (cfg : Config) (a : List Octet) (c : Octet) (p : List Octet) :
    frameContent cfg a c p ≠ [] := by
  simp [frameContent, bodyOf]

theorem feedDecoder_wireFrame (ha : a.length = cfg.addrLen)
    (hcap : ∀ cap, cfg.accCap = some cap → cfg.minFrame + p.length ≤ cap)
    (hflag : stepDecoder cfg st FLAG = .ok (.inFrame [], rs)) :
    feedDecoder cfg st (wireFrame cfg a c p) = .ok (.inFrame [], rs ++ [.ok ⟨a, c, p⟩]) := by
  rw [← validateContent_frameContent ha]
  refine feedDecoder_delimited (fun cap h => ?_) (frameContent_ne_nil cfg a c p) hflag
  rw [length_frameContent ha]
  exact hcap cap h

/-- Settles O26: from both start states the opening `FLAG` gives no result. -/
theorem encodedFrameDecodesToItself : Obligations.EncodedFrameDecodesToItself := fun _ _ _ _ ha hcap =>
  ⟨feedDecoder_wireFrame ha hcap (stepDecoder_searching_flag _),
    feedDecoder_wireFrame ha hcap (stepDecoder_inFrame_nil_flag _)⟩

/-- Settles O27: the opening `FLAG` ends whatever came before; the closing one adds the frame as the last result. -/
theorem decoderResynchronises : Obligations.DecoderResynchronises := by
  intro cfg st u a c p hcap ha
  have hfits : ∀ n cap, cfg.accCap = some cap → n ≤ cap := fun n cap h => by
    rw [hcap] at h
    cases h
  obtain ⟨st1, rs1, hu⟩ := feedDecoder_unbounded hcap st u
  obtain ⟨rs2, hflag⟩ := stepDecoder_flag cfg st1
  have hdrop : (wireFrame cfg a c p).dropLast = [FLAG] ++ escapeEncode (frameContent cfg a c p) := List.dropLast_concat
  refine ⟨.inFrame (frameContent cfg a c p), rs1 ++ rs2, ?_, ?_⟩
  · rw [hdrop]
    exact feedDecoder_append hu (feedDecoder_opened (hfits _) hflag)
  · rw [List.append_assoc]
    exact feedDecoder_append hu (feedDecoder_wireFrame ha (hfits _) hflag)

theorem exec_decodeStream {s : State} (h : feedDecoder hardware .searching w = .ok (st, rs)) :
    exec (.decodeStream w) s = .next (giveReply (.results rs) s) := by
  change execDecodeStream w s = _
  rw [execDecodeStream, h]

/-- Settles O31: the hardware's accumulator is unbounded, so feeding never refuses; a frame delivers its operands. -/
theorem decodeOperationDeliversFrames : Obligations.DecodeOperationDeliversFrames := by
  refine ⟨fun s w => ?_, fun s a c p => ?_⟩
  · obtain ⟨st, rs, h⟩ := feedDecoder_unbounded hardware_accCap .searching w
    exact ⟨st, rs, h, exec_decodeStream h⟩
  · exact exec_decodeStream (feedDecoder_wireFrame rfl (fun cap h => by cases h) (stepDecoder_searching_flag hardware))

/-! ## A changed octet of the content (R110, second part) -/

theorem wordOctets_injective : Function.Injective wordOctets := by
  intro c c' h
  simp only [wordOctets, List.cons.injEq] at h
  obtain ⟨h0, h1, h2, h3, -⟩ := h
  rw [← append_octets_of_word c, ← append_octets_of_word c', h0, h1, h2, h3]

/-- The change is in the data, whose checksum it changes, or in the FCS. -/
theorem validateContent_set_frameContent (a c : Octet) (p : List Octet) {k : Nat} {v old : Octet}
    (hold : (frameContent hardware [a] c p)[k]? = some old) (hv : v ≠ old) :
    validateContent hardware ((frameContent hardware [a] c p).set k v) = .rej .checksumMismatch := by
  have hbody : hardware.addrLen + CTRL_LEN ≤ (bodyOf [a] c p).length := by
    rw [length_bodyOf]
    exact Nat.le_add_right _ _
  rw [frameContent] at hold ⊢
  by_cases hk : k < (bodyOf [a] c p).length
  · rw [List.getElem?_append_left hk] at hold
    rw [List.set_append_left _ _ hk]
    refine validateContent_mismatch (by rwa [List.length_set]) rfl fun hfcs => ?_
    exact crcDetectsOneChangedOctet _ k v old hold hv (wordOctets_injective hfcs)
  · have hk := Nat.le_of_not_lt hk
    rw [List.getElem?_append_right hk] at hold
    rw [List.set_append_right _ _ hk]
    refine validateContent_mismatch hbody (by rw [List.length_set, length_fcsGenerate]) fun hfcs => hv ?_
    have hset := List.getElem?_set_self (a := v) (List.getElem?_eq_some_iff.mp hold).1
    rw [← hfcs, hold] at hset
    exact (Option.some.inj hset).symm

/-- Settles O29: the altered frame is a whole frame of the altered content. -/
theorem oneChangedOctetGivesChecksumMismatch : Obligations.OneChangedOctetGivesChecksumMismatch := by
  intro a c p k v old hold hv
  have hne : (frameContent hardware [a] c p).set k v ≠ [] := by
    rw [Ne, List.set_eq_nil_iff]
    exact frameContent_ne_nil hardware [a] c p
  rw [← validateContent_set_frameContent a c p hold hv]
  exact feedDecoder_delimited (fun cap h => by cases h) hne (stepDecoder_searching_flag hardware)

/-! ## Altered inner octets (R110, first part) -/

/-- What a state remembers of the octets received: those since the last `FLAG`, while a frame is open. -/
def sinceFlag : DecoderState → List Octet
  | .searching => []
  | .inFrame acc => [FLAG] ++ escapeEncode acc
  | .escapePending acc => [FLAG] ++ escapeEncode acc ++ [ESCAPE]

theorem StepCase.sinceFlag_cases (h : StepCase cfg st b st' rs) :
    sinceFlag st' = [] ∨ sinceFlag st' = [b] ∨ sinceFlag st' = sinceFlag st ++ [b] := by
  cases h with
  | ignores | rejects => exact .inl rfl
  | opens | reopens | validates | rejectsAtFlag => exact .inr (.inl rfl)
  | withholds => exact .inr (.inr rfl)
  | appends hflag hesc =>
    simp [sinceFlag, escapeEncode_concat, escapeOctet_of_not_reserved hflag hesc]
  | unescapes hx => simp [sinceFlag, escapeEncode_concat, escapeOctet_of_reserved hx]

theorem StepCase.sinceFlag_suffix (h : StepCase cfg st b st' rs) (hw : sinceFlag st <:+ w) :
    sinceFlag st' <:+ w ++ [b] := by
  obtain ⟨t, rfl⟩ := hw
  obtain hnil | hone | hmore := h.sinceFlag_cases
  · exact hnil ▸ List.nil_suffix
  · exact hone ▸ List.suffix_append _ _
  · exact ⟨t, by rw [hmore, List.append_assoc]⟩

/-- Every delivered frame stood in the stream, delimited and escaped. -/
theorem delivered_infix (hw : sinceFlag st <:+ w) (h : feedDecoder cfg st x = .ok (st', rs)) (hf : Result.ok f ∈ rs) :
    ∃ acc, validateContent cfg acc = .ok f ∧ [FLAG] ++ escapeEncode acc ++ [FLAG] <:+: w ++ x := by
  induction x generalizing st w rs with
  | nil =>
    cases h
    cases hf
  | cons b x ih =>
    obtain ⟨st1, r, rs', hstep, hrest, rfl⟩ := feedDecoder_cons_eq_ok.mp h
    have hcase := stepCase_of_stepDecoder hstep
    rw [List.append_cons]
    obtain hf | hf := List.mem_append.mp hf
    · obtain ⟨rfl, acc, -, rfl, hvalid⟩ := hcase.candidate_of_ok hf
      obtain ⟨t, rfl⟩ := hw
      exact ⟨acc, hvalid, t, x, by simp [sinceFlag]⟩
    · exact ih (hcase.sinceFlag_suffix hw) hrest hf

/-- Settles O28: a delivered triple stood in the stream as its own wire frame, which the length leaves no room for but
the whole stream. -/
theorem alteredFrameNeverDeliversOriginal : Obligations.AlteredFrameNeverDeliversOriginal := by
  intro cfg a c p inner st rs hne hlen h hf
  obtain ⟨acc, hvalid, hinfix⟩ := delivered_infix (st := .searching) (w := []) List.nil_suffix h hf
  obtain ⟨rfl, -⟩ := eq_frameContent_of_validateContent hvalid
  have heq := hinfix.eq_of_length_le (by simpa using hlen)
  exact hne (List.append_cancel_left (List.append_cancel_right heq)).symm

end Sys2Proof.Machine
end

section
/-! PROOFS. The instructions that work on a decoder (44_frame_decoder R89 to R98, R103; 70_reset_and_hazards R131,
R135): the receive rows as `STEP` on their decoder, and `STEP`, `FEED`, `RESET` and `NEWDECODER`. -/

namespace Sys2Proof.Machine

variable {s t : State} {d : Nat} {b : Octet} {i : Instr} {dec : Decoder} {st : DecoderState} {acc : List Octet}
  {rs : List Result} {bytes : List Octet}

/-! ## The receive rows -/

/-- The transition rule of a receive row. -/
def rxRule : Instr → DecoderState → Option Transition
  | .rxSFlag _ => rowSFlag
  | .rxSOther _ b => rowSOther b
  | .rxFFlagEmpty _ => rowFFlagEmpty
  | .rxFFlagEnd _ => rowFFlagEnd
  | .rxFEscape _ => rowFEscape
  | .rxFLiteral _ b => rowFLiteral b
  | .rxEEscaped5D _ => rowEEscaped5D
  | .rxEEscaped5E _ => rowEEscaped5E
  | .rxEFlag _ => rowEFlag
  | .rxEOther _ b => rowEOther b
  | _ => fun _ => none

theorem exec_receive (hfam : familyOf i = .receive d) (s : State) : exec i s = runRow d (rxRule i) s := by
  cases i <;> cases hfam <;> rfl

theorem familyOf_rxRow (d : Nat) (b : Octet) (st : DecoderState) : familyOf (rxRow d b st) = .receive d := by
  cases st <;> simp only [rxRow] <;> split_ifs <;> rfl

/-- R89: the row an octet selects has the rule that `STEP` applies. -/
theorem rxRule_rxRow (d : Nat) (b : Octet) (st : DecoderState) :
    rxRule (rxRow d b st) st = some (stepDecoder hardware st b) := by
  cases st with
  | searching =>
    simp only [rxRow]
    split_ifs with hflag <;> simp [rxRule, rowSFlag, rowSOther, stepDecoder, hflag]
  | inFrame acc =>
    simp only [rxRow]
    split_ifs with hflag hacc hesc
    · simp [rxRule, rowFFlagEmpty, hflag, hacc, ruleFFlagEmpty]
    · cases acc with
      | nil => exact absurd rfl hacc
      | cons x acc => simp [rxRule, rowFFlagEnd, hflag, stepDecoder]
    · simp [rxRule, rowFEscape, hesc, ruleFEscape]
    · simp [rxRule, rowFLiteral, hflag, hesc, stepDecoder]
  | escapePending acc =>
    simp only [rxRow]
    split_ifs with h5D h5E hflag
    · simp [rxRule, rowEEscaped5D, h5D, stepDecoder, isEscapedValue]
    · simp [rxRule, rowEEscaped5E, h5E, stepDecoder, isEscapedValue]
    · simp [rxRule, rowEFlag, hflag, ruleEFlag, raise, accClear]
    · simp [rxRule, rowEOther, hflag, stepDecoder, isEscapedValue_eq_false h5D h5E]

theorem decode_rx_state (hd : s.decoders[d]? = some dec) (b : Octet) :
    decode (viewOf s) (.octet (.rx d) b) = .ok (rxRow d b dec.state) :=
  decode_rx_viewOf hd (decodeOctet_rx d b dec.state)

theorem exec_rxRow (hd : s.decoders[d]? = some dec) (hstep : stepDecoder hardware dec.state b = .ok (st, rs)) :
    exec (rxRow d b dec.state) s = .next (putDecoder d dec st rs s) := by
  rw [exec_receive (familyOf_rxRow d b dec.state)]
  exact runRow_of_rule hd (by rw [rxRule_rxRow, hstep])

/-- Settles O15: the row selected is that of the decoder's state, and its rule is the step. -/
theorem receiveRowsPerformStep : Obligations.ReceiveRowsPerformStep := by
  intro s d b dec i hd hdecode
  rw [decode_rx_state hd] at hdecode
  cases hdecode
  obtain ⟨st, rs, hstep⟩ := stepDecoder_unbounded hardware_accCap dec.state b
  exact ⟨st, rs, hstep, exec_rxRow hd hstep⟩

/-- A row named by the state and the octet, run where it is selected. -/
theorem decode_exec_rxRow (hd : s.decoders[d]? = some dec) (hrow : rxRow d b dec.state = i)
    (hstep : stepDecoder hardware dec.state b = .ok (st, rs)) :
    decode (viewOf s) (.octet (.rx d) b) = .ok i ∧
      exec i s = .next { s with decoders := s.decoders.set d ⟨st, dec.results ++ rs⟩ } := by
  subst hrow
  exact ⟨decode_rx_state hd b, exec_rxRow hd hstep⟩

/-- Settles O9: with something accumulated the `FLAG` selects the validating row. -/
theorem frameEndingFlagValidates : Obligations.FrameEndingFlagValidates := fun _ _ _ _ hacc hd =>
  decode_exec_rxRow hd (if_neg hacc) (stepDecoder_inFrame_flag hacc)

/-- Settles O13: one row, whose rule rejects and reopens. -/
theorem flagAfterEscapeRejectsAndReopens : Obligations.FlagAfterEscapeRejectsAndReopens := fun _ _ acc _ hd =>
  decode_exec_rxRow hd rfl (stepDecoder_escapePending_flag hardware acc)

/-- Settles O11: the row selected appends; the rule of a full accumulator refuses. -/
theorem inFrameLiteralIsAppended : Obligations.InFrameLiteralIsAppended := by
  refine ⟨fun s d acc old b hflag hesc hd => ?_, fun cfg acc b hcap => ?_⟩
  · have hrow : rxRow d b (.inFrame acc) = .rxFLiteral d b := (if_neg hflag).trans (if_neg hesc)
    have hstep := (stepDecoder_inFrame_literal hflag hesc).trans (appendInFrame_unbounded hardware_accCap acc b)
    simpa using decode_exec_rxRow hd hrow hstep
  · exact appendInFrame_eq_error.mpr ⟨rfl, acc.length, hcap, Nat.le_refl _⟩

/-- Settles O12: each of the two values selects its own row, which appends what the value stands for. -/
theorem escapePairAppendsReservedOctet : Obligations.EscapePairAppendsReservedOctet := by
  refine ⟨fun s d acc old hd => ?_, fun cfg acc b hcap => ?_⟩
  · have hstep : ∀ b : Octet, isEscapedValue b = true →
        stepDecoder hardware (.escapePending acc) b = .ok (.inFrame (acc ++ [escapeValue b]), []) := fun b hb =>
      (stepDecoder_escapePending_escaped hb).trans (appendInFrame_unbounded hardware_accCap acc _)
    obtain ⟨hdecode5D, hexec5D⟩ := decode_exec_rxRow hd rfl (hstep ESCAPED_ESCAPE rfl)
    obtain ⟨hdecode5E, hexec5E⟩ := decode_exec_rxRow hd rfl (hstep ESCAPED_FLAG rfl)
    rw [List.append_nil] at hexec5D hexec5E
    exact ⟨hdecode5D, hexec5D, hdecode5E, hexec5E, rfl, rfl, rfl⟩
  · exact appendInFrame_eq_error.mpr ⟨rfl, acc.length, hcap, Nat.le_refl _⟩

/-! ## The operations on a decoder or a state value -/

theorem runOperand_held {f : DecoderState → Transition} (hd : s.decoders[d]? = some dec)
    (hf : f dec.state = .ok (st, rs)) :
    runOperand (.held d) f s = .next (giveReply (.stepped st rs) (putDecoder d dec st rs s)) :=
  runOperand_eq_next.mpr ⟨_, st, rs, readOperand_held hd, hf, by rw [writeOperand_held st rs hd]⟩

theorem runOperand_value {f : DecoderState → Transition} {v : DecoderState} (hf : f v = .ok (st, rs)) (s : State) :
    runOperand (.value v) f s = .next (giveReply (.stepped st rs) s) :=
  runOperand_eq_next.mpr ⟨v, st, rs, rfl, hf, rfl⟩

theorem exec_stepOctet_held (hd : s.decoders[d]? = some dec) (hstep : stepDecoder hardware dec.state b = .ok (st, rs)) :
    exec (.stepOctet (.held d) b) s = .next (giveReply (.stepped st rs) (putDecoder d dec st rs s)) :=
  runOperand_held hd hstep

theorem exec_feed_held (hd : s.decoders[d]? = some dec) (hfeed : feedDecoder hardware dec.state bytes = .ok (st, rs)) :
    exec (.feed (.held d) bytes) s = .next (giveReply (.stepped st rs) (putDecoder d dec st rs s)) :=
  runOperand_held hd hfeed

theorem exec_stepOctet_value {v : DecoderState} (hstep : stepDecoder hardware v b = .ok (st, rs)) (s : State) :
    exec (.stepOctet (.value v) b) s = .next (giveReply (.stepped st rs) s) :=
  runOperand_value (f := (stepDecoder hardware · b)) hstep s

theorem exec_feed_value {v : DecoderState} (hfeed : feedDecoder hardware v bytes = .ok (st, rs)) (s : State) :
    exec (.feed (.value v) bytes) s = .next (giveReply (.stepped st rs) s) :=
  runOperand_value (f := (feedDecoder hardware · bytes)) hfeed s

theorem runOperand_refuses_absent {f : DecoderState → Transition} (hd : s.decoders[d]? = none) :
    runOperand (.held d) f s = .refused .noSuchDecoder := by
  simp [runOperand, readOperand, hd]

theorem exec_resetDecoder (hd : s.decoders[d]? = some dec) :
    exec (.resetDecoder d) s = .next (giveReply (.decoderState .searching) (putDecoder d dec .searching [] s)) := by
  change execResetDecoder d s = _
  rw [execResetDecoder, hd]

theorem exec_resetDecoder_refuses_absent (hd : s.decoders[d]? = none) :
    exec (.resetDecoder d) s = .refused .noSuchDecoder := by
  change execResetDecoder d s = _
  rw [execResetDecoder, hd]

/-- Settles O19: no step of the hardware refuses, and the operand is read and written as its form says. -/
theorem stepOperationCompletes : Obligations.StepOperationCompletes := by
  refine fun s b => ⟨fun d dec hd => ?_, fun v => ?_⟩
  · obtain ⟨st, rs, hstep⟩ := stepDecoder_unbounded hardware_accCap dec.state b
    exact ⟨st, rs, hstep, exec_stepOctet_held hd hstep⟩
  · obtain ⟨st, rs, hstep⟩ := stepDecoder_unbounded hardware_accCap v b
    exact ⟨st, rs, hstep, exec_stepOctet_value hstep s⟩

/-- Settles O20: no stream stops the hardware's decoder; the fold law is that of `FEED` on a first octet. -/
theorem feedOperationCompletes : Obligations.FeedOperationCompletes := by
  refine ⟨fun s bytes => ⟨fun d dec hd => ?_, fun v => ?_⟩, feedDecoder_nil,
    fun cfg st st1 st2 b rest r1 r2 hstep hrest => feedDecoder_cons_eq_ok.mpr ⟨st1, r1, r2, hstep, hrest, rfl⟩⟩
  · obtain ⟨st, rs, hfeed⟩ := feedDecoder_unbounded hardware_accCap dec.state bytes
    exact ⟨st, rs, hfeed, exec_feed_held hd hfeed⟩
  · obtain ⟨st, rs, hfeed⟩ := feedDecoder_unbounded hardware_accCap v bytes
    exact ⟨st, rs, hfeed, exec_feed_value hfeed s⟩

/-- Settles O32: the state is replaced and the stream kept. -/
theorem resetDropsPartialFrame : Obligations.ResetDropsPartialFrame := by
  intro s d dec hd
  rw [exec_resetDecoder hd, putDecoder_no_results]
  rfl

theorem exec_newDecoder (s : State) :
    exec .newDecoder s =
      .next (giveReply (.instanceNumber s.decoders.length) { s with decoders := s.decoders ++ [Decoder.fresh] }) := rfl

/-- Settles O33: a fresh decoder is one in `SEARCHING` without results. -/
theorem newDecoderStartsSearching : Obligations.NewDecoderStartsSearching := exec_newDecoder

/-! ## The control-field builder -/

theorem exec_ctrlBuild (sel : FrameTypeSelector) (s : State) :
    exec (.ctrlBuild sel) s = runCtrlBuild hardware sel s := rfl

theorem runCtrlBuild_of_bits {cfg : Config} {sel : FrameTypeSelector} {bits : Octet}
    (h : frameTypeBits cfg sel = some bits)
    (s : State) : runCtrlBuild cfg sel s = .next (giveReply (.octet (controlOctet bits)) s) :=
  runCtrlBuild_eq_next.mpr ⟨bits, h, rfl⟩

/-- Settles O48: by the form of the selector; the two bits are those of 0x03. -/
theorem controlOctetHasDiscriminatorBits : Obligations.ControlOctetHasDiscriminatorBits := by
  refine ⟨fun s bits => runCtrlBuild_of_bits (frameTypeBits_pattern hardware bits) s,
    runCtrlBuild_of_bits (cfg := hardware) (sel := .named .unnumberedInformation) rfl,
    fun cfg s f bits h => runCtrlBuild_of_bits (sel := .named f) h s, fun bits => ⟨?_, ?_⟩⟩
  · rw [BitVec.getLsbD_or]
    exact Bool.true_or _
  · rw [BitVec.getLsbD_or]
    exact Bool.true_or _

/-- Settles O49: a decoder that is not read, a variant that is not looked up. -/
theorem absentOperandsAreRefused : Obligations.AbsentOperandsAreRefused := by
  refine ⟨fun s d b bytes hlen => ?_, fun s k => ?_, fun cfg s f h => ?_⟩
  · have hd : s.decoders[d]? = none := List.getElem?_eq_none hlen
    exact ⟨runOperand_refuses_absent hd, runOperand_refuses_absent hd, exec_resetDecoder_refuses_absent hd⟩
  · exact (exec_ctrlBuild _ s).trans (runCtrlBuild_eq_refused.mpr ⟨rfl, rfl⟩)
  · exact runCtrlBuild_eq_refused.mpr ⟨h, rfl⟩

end Sys2Proof.Machine
end

section
/-! PROOFS. The rows of the byte escaper on the machine (40_byte_escaper R60 to R66), and how a step serves a request
(log 1): a run over octets at the two escaper ports does what the sequence operations do. -/

namespace Sys2Proof.Machine

variable {s t : State} {b : Octet} {i : Instr} {run : UxRun} {out w x : List Octet} {r : Request} {rest : List Request}

/-! ## One step -/

theorem step_of_no_request (h : s.requests = []) : step s = .next s := by
  rw [step, takeRequest_nil h]

theorem step_of_decode (hreq : s.requests = r :: rest) (hdecode : decode (viewOf s) r = .ok i) :
    step s = exec i { s with requests := rest } := by
  simp only [step, takeRequest_cons hreq, hdecode]

theorem step_of_reject {e : DecodeReject} (hreq : s.requests = r :: rest) (hdecode : decode (viewOf s) r = .error e) :
    step s = answerReject e { s with requests := rest } := by
  simp only [step, takeRequest_cons hreq, hdecode]

/-- Settles O5: the oldest request is taken, and what it decodes to runs on the rest. -/
theorem stepRunsDecodedRequest : Obligations.StepRunsDecodedRequest := fun _ _ _ _ => step_of_decode

theorem step_endOfInput_plain (hreq : s.requests = .endOfInput :: rest) (hux : s.ux = ⟨.plain, out⟩) :
    step s = .next { s with requests := rest, ux := UxRun.start, replies := s.replies ++ [.octets out] } := by
  rw [step_of_reject hreq (decode_endOfInput_plain (congrArg UxRun.format hux))]
  simp [answerReject, finishUx, giveReply, hux]

theorem step_absent_decoder {d : Nat} (hreq : s.requests = .octet (.rx d) b :: rest) (hd : s.decoders.length ≤ d) :
    step s = .refused .noSuchDecoder := by
  have hview : (viewOf s).decoders[d]? = none := List.getElem?_eq_none (by simpa using hd)
  rw [step_of_reject hreq (decode_rx_of_absent hview), answerReject]

/-- Settles O6: the three ways a step reads no instruction. -/
theorem stepWithoutInstruction : Obligations.StepWithoutInstruction :=
  ⟨fun _ => step_of_no_request, fun _ _ _ => step_endOfInput_plain, fun _ _ _ _ => step_absent_decoder⟩

/-- A run whose first part ends in `t` goes on from there. -/
theorem core_run_add {m n : Nat} (h : Sys2Proof.core.run m s = .next t) :
    Sys2Proof.core.run (m + n) s = Sys2Proof.core.run n t := by
  induction m generalizing s with
  | zero =>
    cases h
    rw [Nat.zero_add]
  | succ m ih =>
    cases hstep : step s with
    | next s1 =>
      rw [core_run_succ hstep] at h
      rw [Nat.add_right_comm, core_run_succ hstep, ih h]
    | fault f => cases f
    | refused e =>
      have hcore : Sys2Proof.core.step s = .refused e := hstep
      simp only [Host.Core.run, hcore] at h
      cases h

/-! ## The encode direction -/

theorem exec_txRow (b : Octet) (s : State) : exec (txRow b) s = .next (txPut (escapeOctet b) s) := by
  unfold txRow
  split_ifs with hflag hesc
  · rw [hflag, exec_txFlag]
    rfl
  · rw [hesc, exec_txEscape]
    rfl
  · rw [exec_txLiteral hflag hesc, escapeOctet_of_not_reserved hflag hesc]

theorem step_tx (hreq : s.requests = .octet .tx b :: rest) :
    step s = .next (txPut (escapeOctet b) { s with requests := rest }) := by
  rw [step_of_decode hreq (decode_tx_eq _ b), exec_txRow]

/-- Settles O41: each octet is taken and its escaped form put, as `ESC.ENC` does octet by octet. -/
theorem transmitRowsRefineEscapeEncode : Obligations.TransmitRowsRefineEscapeEncode := by
  intro s x rest hreq
  induction x generalizing s with
  | nil =>
    obtain rfl : rest = s.requests := hreq.symm
    simp [escapeEncode]
  | cons b x ih =>
    rw [List.length_cons, core_run_succ (step_tx hreq), ih _ rfl]
    simp [txPut, escapeEncode]

/-! ## The decode direction -/

section
variable {format : UxFormat} {selected : Bool} {rule : UxRun → UxRun × Option Reply}

theorem runUx_of_silent (hformat : s.ux.format = format) (hsel : selected = true) (hrule : rule s.ux = (run, none)) :
    runUx format selected rule s = .next { s with ux := run } :=
  runUx_eq_next.mpr ⟨hformat, hsel, by simp [hrule]⟩

theorem runUx_of_reply {r : Reply} (hformat : s.ux.format = format) (hsel : selected = true)
    (hrule : rule s.ux = (run, some r)) : runUx format selected rule s = .next (giveReply r { s with ux := run }) :=
  runUx_eq_next.mpr ⟨hformat, hsel, by simp [hrule, giveReply]⟩

end

/-- What a row of the decode direction makes of the transient, and what it returns. -/
def uxRule : Instr → UxRun → UxRun × Option Reply
  | .uxPEscape => fun run => (⟨.escaped, run.out⟩, none)
  | .uxPCopy b => fun run => (⟨.plain, run.out ++ [b]⟩, none)
  | .uxEEscaped5D => fun run => (⟨.plain, run.out ++ [ESCAPE]⟩, none)
  | .uxEEscaped5E => fun run => (⟨.plain, run.out ++ [FLAG]⟩, none)
  | _ => fun _ => (UxRun.start, some .malformedEscape)

/-- The format a row of the decode direction belongs to. -/
def uxFormatOf : Instr → UxFormat
  | .uxPEscape => .plain
  | .uxPCopy _ => .plain
  | _ => .escaped

theorem exec_unescape (hfam : familyOf i = .unescape) (s : State) :
    exec i s = runUx (uxFormatOf i) i.wellFormed (uxRule i) s := by
  cases i
  case uxPEscape | uxPCopy | uxEEscaped5D | uxEEscaped5E | uxEEnd => rfl
  case uxEBad b =>
    rw [show (Instr.uxEBad b).wellFormed = !isEscapedValue b from (Bool.not_or _ _).symm]
    rfl
  all_goals cases hfam

theorem exec_uxPEscape (hformat : s.ux.format = .plain) :
    exec .uxPEscape s = .next { s with ux := ⟨.escaped, s.ux.out⟩ } :=
  (exec_unescape rfl s).trans (runUx_of_silent hformat rfl rfl)

theorem exec_uxPCopy (hformat : s.ux.format = .plain) (hesc : b ≠ ESCAPE) :
    exec (.uxPCopy b) s = .next { s with ux := ⟨.plain, s.ux.out ++ [b]⟩ } :=
  (exec_unescape rfl s).trans (runUx_of_silent hformat (bne_iff_ne.mpr hesc) rfl)

theorem exec_uxEEscaped5D (hformat : s.ux.format = .escaped) :
    exec .uxEEscaped5D s = .next { s with ux := ⟨.plain, s.ux.out ++ [ESCAPE]⟩ } :=
  (exec_unescape rfl s).trans (runUx_of_silent hformat rfl rfl)

theorem exec_uxEEscaped5E (hformat : s.ux.format = .escaped) :
    exec .uxEEscaped5E s = .next { s with ux := ⟨.plain, s.ux.out ++ [FLAG]⟩ } :=
  (exec_unescape rfl s).trans (runUx_of_silent hformat rfl rfl)

theorem exec_uxEBad (hformat : s.ux.format = .escaped) (h5D : b ≠ ESCAPED_ESCAPE) (h5E : b ≠ ESCAPED_FLAG) :
    exec (.uxEBad b) s = .next (giveReply .malformedEscape { s with ux := UxRun.start }) :=
  (exec_unescape rfl s).trans
    (runUx_of_reply hformat (Bool.and_eq_true_iff.mpr ⟨bne_iff_ne.mpr h5D, bne_iff_ne.mpr h5E⟩) rfl)

theorem exec_uxEEnd (hformat : s.ux.format = .escaped) :
    exec .uxEEnd s = .next (giveReply .malformedEscape { s with ux := UxRun.start }) :=
  (exec_unescape rfl s).trans (runUx_of_reply hformat rfl rfl)

/-- Settles O40: in each format the octets by the row they select. -/
theorem unescapeRowsFollowTable : Obligations.UnescapeRowsFollowTable := by
  refine ⟨fun s out hux => ?_, fun s out hux => ?_⟩
  · have hformat : s.ux.format = .plain := congrArg UxRun.format hux
    have hout : s.ux.out = out := congrArg UxRun.out hux
    have hdecode : ∀ b, decode (viewOf s) (.octet .ux b) = .ok (uxRow b .plain) := fun b =>
      hformat ▸ decode_ux_eq (viewOf s) b
    subst hout
    exact ⟨hdecode ESCAPE, exec_uxPEscape hformat,
      fun b hesc => ⟨(hdecode b).trans (congrArg _ (if_neg hesc)), exec_uxPCopy hformat hesc⟩⟩
  · have hformat : s.ux.format = .escaped := congrArg UxRun.format hux
    have hout : s.ux.out = out := congrArg UxRun.out hux
    have hdecode : ∀ b, decode (viewOf s) (.octet .ux b) = .ok (uxRow b .escaped) := fun b =>
      hformat ▸ decode_ux_eq (viewOf s) b
    subst hout
    exact ⟨hdecode ESCAPED_ESCAPE, exec_uxEEscaped5D hformat, hdecode ESCAPED_FLAG, exec_uxEEscaped5E hformat,
      decode_endOfInput_escaped hformat, exec_uxEEnd hformat,
      fun b h5D h5E => ⟨(hdecode b).trans (congrArg _ ((if_neg h5D).trans (if_neg h5E))),
        exec_uxEBad hformat h5D h5E⟩⟩

/-- An octet that the transient takes: nothing is returned. -/
theorem exec_uxRow (h : uxNext s.ux b = some run) : exec (uxRow b s.ux.format) s = .next { s with ux := run } := by
  obtain ⟨decoders, tx, ⟨_ | _, out⟩, replies, requests⟩ := s
  · by_cases hesc : b = ESCAPE
    · subst hesc
      cases h
      exact exec_uxPEscape rfl
    · cases (uxNext_plain_other hesc).symm.trans h
      rw [show uxRow b .plain = .uxPCopy b from if_neg hesc]
      exact exec_uxPCopy rfl hesc
  · cases hb : isEscapedValue b with
    | false => cases (uxNext_escaped_bad hb).symm.trans h
    | true =>
      obtain rfl | rfl := (isEscapedValue_iff b).mp hb
      · cases h
        exact exec_uxEEscaped5D rfl
      · cases h
        exact exec_uxEEscaped5E rfl

/-- An octet that the transient does not take: the error alone, and the operation is over. -/
theorem exec_uxRow_bad (h : uxNext s.ux b = none) :
    exec (uxRow b s.ux.format) s = .next (giveReply .malformedEscape { s with ux := UxRun.start }) := by
  obtain ⟨hformat, hb⟩ := uxNext_eq_none h
  obtain ⟨h5D, h5E⟩ : b ≠ ESCAPED_ESCAPE ∧ b ≠ ESCAPED_FLAG := by simpa [isEscapedValue] using hb
  rw [hformat, show uxRow b .escaped = .uxEBad b from (if_neg h5D).trans (if_neg h5E)]
  exact exec_uxEBad hformat h5D h5E

theorem step_ux (hreq : s.requests = .octet .ux b :: rest) (h : uxNext s.ux b = some run) :
    step s = .next { s with requests := rest, ux := run } := by
  rw [step_of_decode hreq (decode_ux_eq _ b)]
  exact exec_uxRow (s := { s with requests := rest }) h

theorem step_ux_bad (hreq : s.requests = .octet .ux b :: rest) (h : uxNext s.ux b = none) :
    step s = .next { s with requests := rest, ux := UxRun.start, replies := s.replies ++ [.malformedEscape] } := by
  rw [step_of_decode hreq (decode_ux_eq _ b)]
  exact exec_uxRow_bad (s := { s with requests := rest }) h

/-- The run over octets that the transient takes is the fold of `ESC.DEC`. -/
theorem run_ux (hreq : s.requests = w.map (Request.octet .ux) ++ rest) (h : w.foldlM uxNext s.ux = some run) :
    Sys2Proof.core.run w.length s = .next { s with requests := rest, ux := run } := by
  induction w generalizing s with
  | nil =>
    obtain rfl : rest = s.requests := hreq.symm
    cases h
    rfl
  | cons b w ih =>
    obtain ⟨run1, hnext, hrest⟩ := Option.bind_eq_some_iff.mp h
    rw [List.length_cons, core_run_succ (step_ux hreq hnext), ih rfl hrest]

/-- One more request after an unanswered `ESCAPE`, where no valid escaped value follows: the error. -/
theorem step_ux_of_badHead {after : List Octet} (hux : s.ux = ⟨.escaped, out⟩) (hbad : BadHead after)
    (hreq : s.requests = after.map (Request.octet .ux) ++ .endOfInput :: rest) :
    step s =
      .next { s with
        requests := s.requests.drop 1, ux := UxRun.start, replies := s.replies ++ [.malformedEscape] } := by
  cases after with
  | nil =>
    have hreq : s.requests = .endOfInput :: rest := hreq
    have hformat : s.ux.format = .escaped := congrArg UxRun.format hux
    rw [step_of_decode hreq (decode_endOfInput_escaped hformat), hreq]
    exact exec_uxEEnd (s := { s with requests := rest }) hformat
  | cons b after =>
    have hreq : s.requests = .octet .ux b :: (after.map (Request.octet .ux) ++ .endOfInput :: rest) := hreq
    rw [step_ux_bad hreq (hux ▸ uxNext_escaped_bad (badHead_cons.mp hbad)), hreq]
    rfl

/-- Settles O42: without an error the run is the fold and the end of the input; with one it is the fold up to the
first `ESCAPE` without its second octet, and the request after that. -/
theorem unescapeRowsRefineEscapeDecode : Obligations.UnescapeRowsRefineEscapeDecode := by
  intro s w rest hreq hux
  obtain ⟨decoders, tx, ux, replies, requests⟩ := s
  obtain rfl : ux = UxRun.start := hux
  refine ⟨fun x hx => ?_, fun hnone => ?_⟩
  · rw [core_run_add (run_ux hreq (escapeDecode_eq_some.mp hx)), core_run_one]
    exact step_endOfInput_plain rfl rfl
  · obtain ⟨before, good, after, rfl, hbefore, hbad⟩ := escapeDecode_eq_none.mp hnone
    have hfold : (before ++ [ESCAPE]).foldlM uxNext UxRun.start = some ⟨.escaped, good⟩ := by
      rw [List.foldlM_append, escapeDecode_eq_some.mp hbefore]
      rfl
    rw [List.map_append, List.append_assoc] at hreq
    obtain rfl : requests = _ := hreq
    have hlen : (before ++ [ESCAPE]).length = before.length + 1 := List.length_append
    have htake : (before ++ [ESCAPE] ++ after).take (before.length + 1) = before ++ [ESCAPE] := List.take_left' hlen
    have htake' : (before ++ [ESCAPE] ++ after).take before.length = before := by rw [List.append_assoc, List.take_left]
    refine ⟨before.length + 2, by omega, by rw [List.length_append]; omega, ?_, ⟨good, ?_⟩, ?_⟩
    · rw [Nat.add_sub_assoc (by omega), htake, escapeDecode_eq_fold, hfold]
      rfl
    · rw [Nat.add_sub_cancel, htake', hbefore]
    · rw [show before.length + 2 = (before ++ [ESCAPE]).length + 1 by rw [hlen], core_run_add (run_ux rfl hfold),
        core_run_one]
      refine (step_ux_of_badHead rfl hbad rfl).trans ?_
      rw [← List.length_map (Request.octet .ux), List.drop_length_add_append]
      rfl

end Sys2Proof.Machine
end

section
/-! PROOFS. What an instruction can do to the machine: whether a row is selected, what each family changes, that it
completes with operands that exist, and what its outcome depends on (10_state R18, R20; 20_memory R26, R36). -/

namespace Sys2Proof.Machine

variable {s t : State} {d n : Nat} {b : Octet} {i : Instr} {dec : Decoder} {st st' : DecoderState}
  {rs : List Result} {tr : Transition}

/-! ## Rows that are not selected -/

/-- A receive row that has a rule in a state is the row its octet selects there. -/
theorem exists_rxRow_of_rxRule (hfam : familyOf i = .receive d) (h : rxRule i st = some tr) :
    ∃ b, rxRow d b st = i := by
  cases i
  case rxSFlag => cases hfam; exact ⟨FLAG, by cases st <;> simp_all [rxRule, rowSFlag, rxRow]⟩
  case rxSOther b => cases hfam; exact ⟨b, by cases st <;> simp_all [rxRule, rowSOther, rxRow]⟩
  case rxFFlagEmpty =>
    cases hfam
    exact ⟨FLAG, by rcases st with _ | ⟨_ | _⟩ | _ <;> simp_all [rxRule, rowFFlagEmpty, rxRow]⟩
  case rxFFlagEnd =>
    cases hfam
    exact ⟨FLAG, by rcases st with _ | ⟨_ | _⟩ | _ <;> simp_all [rxRule, rowFFlagEnd, rxRow]⟩
  case rxFEscape => cases hfam; exact ⟨ESCAPE, by cases st <;> simp_all [rxRule, rowFEscape, rxRow]⟩
  case rxFLiteral b => cases hfam; exact ⟨b, by cases st <;> simp_all [rxRule, rowFLiteral, rxRow]⟩
  case rxEEscaped5D => cases hfam; exact ⟨ESCAPED_ESCAPE, by cases st <;> simp_all [rxRule, rowEEscaped5D, rxRow]⟩
  case rxEEscaped5E => cases hfam; exact ⟨ESCAPED_FLAG, by cases st <;> simp_all [rxRule, rowEEscaped5E, rxRow]⟩
  case rxEFlag => cases hfam; exact ⟨FLAG, by cases st <;> simp_all [rxRule, rowEFlag, rxRow]⟩
  case rxEOther b =>
    cases hfam
    exact ⟨b, by cases st <;> simp_all [rxRule, rowEOther, rxRow, isEscapedValue]⟩
  all_goals cases hfam

theorem viewOf_decoder (hd : s.decoders[d]? = some dec) : (viewOf s).decoders[d]? = some dec.state := by
  rw [viewOf_decoders, List.getElem?_map, hd, Option.map_some]

theorem receive_refused (hfam : familyOf i = .receive d) (h : (i.wellFormed && i.inForce (viewOf s)) = false) :
    exec i s = .refused .rowNotSelected ∨ exec i s = .refused .noSuchDecoder ∧ s.decoders.length ≤ d := by
  rw [exec_receive hfam]
  cases hd : s.decoders[d]? with
  | none => exact .inr ⟨runRow_refuses_absent hd, List.getElem?_eq_none_iff.mp hd⟩
  | some dec =>
    cases hrule : rxRule i dec.state with
    | none => exact .inl (runRow_refuses_unselected hd hrule)
    | some tr =>
      obtain ⟨b, rfl⟩ := exists_rxRow_of_rxRule hfam hrule
      obtain ⟨hwf, hf, -⟩ := rxRow_standsFor (b := b) (viewOf_decoder hd)
      rw [hwf, hf] at h
      cases h

theorem runTx_refuses {selected : Bool} {octets : List Octet} (h : selected = false) :
    runTx selected octets s = .refused .rowNotSelected := if_neg (ne_true_of_eq_false h)

theorem runUx_refuses {format : UxFormat} {selected : Bool} {rule : UxRun → UxRun × Option Reply}
    (h : (selected && s.ux.format == format) = false) : runUx format selected rule s = .refused .rowNotSelected :=
  if_neg fun ⟨hformat, hsel⟩ => by simp [hformat, hsel] at h

theorem transmit_refused (hfam : familyOf i = .transmit) (h : (i.wellFormed && i.inForce (viewOf s)) = false) :
    exec i s = .refused .rowNotSelected := by
  cases i
  case txFlag | txEscape => cases h
  case txLiteral => exact runTx_refuses ((Bool.and_true _).symm.trans h)
  all_goals cases hfam

theorem unescape_refused (hfam : familyOf i = .unescape) (h : (i.wellFormed && i.inForce (viewOf s)) = false) :
    exec i s = .refused .rowNotSelected := by
  have hforce : i.inForce (viewOf s) = (s.ux.format == uxFormatOf i) := by
    cases i
    case uxPEscape | uxPCopy | uxEEscaped5D | uxEEscaped5E | uxEBad | uxEEnd => rfl
    all_goals cases hfam
  rw [exec_unescape hfam]
  exact runUx_refuses (hforce ▸ h)

/-- Settles O17: by the direction of the row; an operation is always well formed and in force. -/
theorem unselectedRowsAreRefused : Obligations.UnselectedRowsAreRefused := by
  intro i s h
  cases hfam : familyOf i with
  | receive d => exact (receive_refused hfam h).imp_right fun ⟨hexec, hd⟩ => ⟨hexec, d, rfl, hd⟩
  | transmit => exact .inl (transmit_refused hfam h)
  | unescape => exact .inl (unescape_refused hfam h)
  | escaper | fcsEngine | controlBuilder | encoder | decoder | creation =>
    cases i
    case escv | escEnc | escDec | crc32 | crc32Update | fcsGen | fcsChk | ctrlBuild | encodeFrame | stepOctet |
        validate | feed | resetDecoder | decodeStream | newDecoder => cases h
    all_goals cases hfam

/-! ## What an instruction does to a decoder -/

/-- Every delivered frame has an address of the hardware's width. -/
def AddressesFit (rs : List Result) : Prop := ∀ f, Result.ok f ∈ rs → f.address.length = hardware.addrLen

theorem addressesFit_nil : AddressesFit [] := fun _ hf => by cases hf

theorem AddressesFit.append {rs' : List Result} (h : AddressesFit rs) (h' : AddressesFit rs') :
    AddressesFit (rs ++ rs') :=
  fun f hf => (List.mem_append.mp hf).elim (h f) (h' f)

theorem addressesFit_of_feed {x : List Octet} (h : feedDecoder hardware st x = .ok (st', rs)) : AddressesFit rs := by
  rintro ⟨a, c, p⟩ hf
  obtain ⟨acc, hvalid, -⟩ := delivered_infix List.suffix_rfl h hf
  exact (eq_frameContent_of_validateContent hvalid).2

theorem addressesFit_of_step (h : stepDecoder hardware st b = .ok (st', rs)) : AddressesFit rs :=
  addressesFit_of_feed ((feedDecoder_singleton hardware st b).trans h)

/-- The outcome of an instruction on decoder `d`, which is as `dec`, whatever else the machine holds. -/
def ActsAs (i : Instr) (d : Nat) (dec : Decoder) (st : DecoderState) (rs : List Result) (replies : List Reply) : Prop :=
  ∀ s : State, s.decoders[d]? = some dec →
    exec i s = .next { putDecoder d dec st rs s with replies := s.replies ++ replies }

theorem actsAs_rxRow (hstep : stepDecoder hardware dec.state b = .ok (st, rs)) :
    ActsAs (rxRow d b dec.state) d dec st rs [] := by
  intro s hd
  rw [exec_rxRow hd hstep, List.append_nil]
  rfl

/-- A receive row that goes on is the one its octet selects in the state of its decoder. -/
theorem receive_actsAs (hfam : familyOf i = .receive d) (h : exec i s = .next t) :
    ∃ dec st rs, s.decoders[d]? = some dec ∧ AddressesFit rs ∧ ActsAs i d dec st rs [] := by
  rw [exec_receive hfam] at h
  obtain ⟨dec, st, rs, hd, hrule, -⟩ := runRow_eq_next.mp h
  obtain ⟨b, rfl⟩ := exists_rxRow_of_rxRule hfam hrule
  rw [rxRule_rxRow] at hrule
  have hstep := Option.some.inj hrule
  exact ⟨dec, st, rs, hd, addressesFit_of_step hstep, actsAs_rxRow hstep⟩

/-- `STEP`, `FEED` and `RESET` of a decoder complete whatever state it is in. -/
theorem held_actsAs (hfam : familyOf i = .decoder (some d)) (dec : Decoder) :
    ∃ st rs r, AddressesFit rs ∧ ActsAs i d dec st rs [r] := by
  cases i
  case stepOctet o b =>
    cases o with
    | held =>
      cases hfam
      obtain ⟨st, rs, hstep⟩ := stepDecoder_unbounded hardware_accCap dec.state b
      exact ⟨st, rs, _, addressesFit_of_step hstep, fun s hd => exec_stepOctet_held hd hstep⟩
    | value => cases hfam
  case feed o bytes =>
    cases o with
    | held =>
      cases hfam
      obtain ⟨st, rs, hfeed⟩ := feedDecoder_unbounded hardware_accCap dec.state bytes
      exact ⟨st, rs, _, addressesFit_of_feed hfeed, fun s hd => exec_feed_held hd hfeed⟩
    | value => cases hfam
  case resetDecoder =>
    cases hfam
    exact ⟨.searching, [], _, addressesFit_nil, fun s hd => exec_resetDecoder hd⟩
  all_goals cases hfam

theorem held_refuses_absent (hfam : familyOf i = .decoder (some d)) (hd : s.decoders[d]? = none) :
    exec i s = .refused .noSuchDecoder := by
  cases i
  case stepOctet o _ | feed o _ =>
    cases o <;> cases hfam
    exact runOperand_refuses_absent hd
  case resetDecoder =>
    cases hfam
    exact exec_resetDecoder_refuses_absent hd
  all_goals cases hfam

theorem instanceOf_of_receive (hfam : familyOf i = .receive d) : instanceOf i = some d := by rw [instanceOf, hfam]

theorem instanceOf_of_decoder {o : Option Nat} (hfam : familyOf i = .decoder o) :
    instanceOf i = o := by rw [instanceOf, hfam]

/-- An instruction on a decoder is a receive row or one of `STEP`, `FEED` and `RESET`. -/
theorem family_of_instanceOf (hi : instanceOf i = some d) :
    familyOf i = .receive d ∨ familyOf i = .decoder (some d) := by
  unfold instanceOf at hi
  split at hi <;> simp_all

theorem actsAs_of_instanceOf (hi : instanceOf i = some d) (h : exec i s = .next t) :
    ∃ dec st rs replies, s.decoders[d]? = some dec ∧ AddressesFit rs ∧ ActsAs i d dec st rs replies := by
  obtain hfam | hfam := family_of_instanceOf hi
  · obtain ⟨dec, st, rs, hd, hfit, hacts⟩ := receive_actsAs hfam h
    exact ⟨dec, st, rs, [], hd, hfit, hacts⟩
  · cases hd : s.decoders[d]? with
    | none => cases (held_refuses_absent hfam hd).symm.trans h
    | some dec =>
      obtain ⟨st, rs, r, hfit, hacts⟩ := held_actsAs hfam dec
      exact ⟨dec, st, rs, [r], rfl, hfit, hacts⟩

/-- Settles O58: the same decoder elsewhere gets the same state and results. -/
theorem instanceOutcomeIgnoresTheRest : Obligations.InstanceOutcomeIgnoresTheRest := by
  intro i d s s' t hi hsame h
  obtain ⟨dec, st, rs, replies, hd, -, hacts⟩ := actsAs_of_instanceOf hi h
  cases h.symm.trans (hacts s hd)
  refine ⟨_, hacts s' (hsame ▸ hd), ?_⟩
  obtain ⟨hlt, -⟩ := List.getElem?_eq_some_iff.mp hd
  obtain ⟨hlt', -⟩ := List.getElem?_eq_some_iff.mp (hsame ▸ hd)
  simp only [putDecoder_decoders, List.getElem?_set_self hlt, List.getElem?_set_self hlt']

/-! ## The other instructions -/

/-- The operations that return a value and change nothing else: those of the stateless units, and the decoder's on a
value or a sequence passed by the caller. -/
def RepliesOnly (i : Instr) : Prop :=
  familyOf i = .escaper ∨ familyOf i = .fcsEngine ∨ familyOf i = .controlBuilder ∨ familyOf i = .decoder none

/-- Their value depends on the operands alone. -/
theorem exists_reply (hi : RepliesOnly i)
    (hsel : ∀ sel, i = .ctrlBuild sel → ∃ bits, frameTypeBits hardware sel = some bits) :
    ∃ r, ∀ s, exec i s = .next (giveReply r s) := by
  cases i
  case escv | escEnc | escDec | crc32 | crc32Update | fcsGen | fcsChk | validate => exact ⟨_, fun _ => rfl⟩
  case ctrlBuild sel =>
    obtain ⟨bits, hbits⟩ := hsel sel rfl
    exact ⟨_, runCtrlBuild_of_bits hbits⟩
  case stepOctet o b =>
    cases o with
    | held => simp [RepliesOnly, familyOf, heldInstance] at hi
    | value v =>
      obtain ⟨st, rs, hstep⟩ := stepDecoder_unbounded hardware_accCap v b
      exact ⟨_, exec_stepOctet_value hstep⟩
  case feed o bytes =>
    cases o with
    | held => simp [RepliesOnly, familyOf, heldInstance] at hi
    | value v =>
      obtain ⟨st, rs, hfeed⟩ := feedDecoder_unbounded hardware_accCap v bytes
      exact ⟨_, exec_feed_value hfeed⟩
  case decodeStream w =>
    obtain ⟨st, rs, hfeed⟩ := feedDecoder_unbounded hardware_accCap .searching w
    exact ⟨_, fun _ => exec_decodeStream hfeed⟩
  all_goals simp [RepliesOnly, familyOf] at hi

theorem bits_of_exec_ctrlBuild {sel : FrameTypeSelector} (h : exec (.ctrlBuild sel) s = .next t) :
    ∃ bits, frameTypeBits hardware sel = some bits := by
  obtain ⟨bits, hbits, -⟩ := runCtrlBuild_eq_next.mp h
  exact ⟨bits, hbits⟩

theorem exists_reply_of_exec (hi : RepliesOnly i) (h : exec i s = .next t) :
    ∃ r, ∀ s, exec i s = .next (giveReply r s) :=
  exists_reply hi fun _ hsel => bits_of_exec_ctrlBuild (hsel ▸ h)

theorem exec_encoder (hfam : familyOf i = .encoder) :
    ∃ octets, wellEscaped octets = true ∧ ∀ s, exec i s = .next (giveReply (.octets octets) (txPut octets s)) := by
  cases i
  case encodeFrame a c p => exact ⟨_, wellEscaped_wireFrame hardware [a] c p, exec_encodeFrame a c p⟩
  all_goals cases hfam

/-- Settles O59: a reply and nothing on `tx`, or the frame as both. -/
theorem statelessUnitsDependOnOperandsOnly : Obligations.StatelessUnitsDependOnOperandsOnly := by
  intro i s s' t hfam h
  have hreply : ∀ hi : RepliesOnly i, ∃ (out : List Octet) (r : Reply), ∀ s, exec i s =
      .next { s with tx := s.tx ++ out, replies := s.replies ++ [r] } := fun hi => by
    obtain ⟨r, hr⟩ := exists_reply_of_exec hi h
    exact ⟨[], r, fun s => by rw [hr, List.append_nil]; rfl⟩
  have houtput : ∃ (out : List Octet) (r : Reply), ∀ s, exec i s =
      .next { s with tx := s.tx ++ out, replies := s.replies ++ [r] } := by
    obtain hfam | hfam | hfam | hfam := hfam
    · exact hreply (.inl hfam)
    · exact hreply (.inr (.inl hfam))
    · exact hreply (.inr (.inr (.inl hfam)))
    · obtain ⟨octets, -, hexec⟩ := exec_encoder hfam
      exact ⟨octets, _, hexec⟩
  obtain ⟨out, r, hexec⟩ := houtput
  cases h.symm.trans (hexec s)
  exact ⟨out, r, rfl, hexec s'⟩

theorem exec_transmit (hfam : familyOf i = .transmit) (h : exec i s = .next t) :
    ∃ octets, wellEscaped octets = true ∧ t = txPut octets s := by
  cases i
  case txFlag =>
    cases (exec_txFlag s).symm.trans h
    exact ⟨_, wellEscaped_escapeOctet FLAG, rfl⟩
  case txEscape =>
    cases (exec_txEscape s).symm.trans h
    exact ⟨_, wellEscaped_escapeOctet ESCAPE, rfl⟩
  case txLiteral b =>
    obtain ⟨hsel, rfl⟩ := runTx_eq_next.mp h
    exact ⟨[b], by simpa [wellEscaped] using (Bool.and_eq_true_iff.mp hsel).2, rfl⟩
  all_goals cases hfam

theorem ux_of_exec_unescape (hfam : familyOf i = .unescape) (h : exec i s = .next t) :
    ∃ run replies, t = { s with ux := run, replies := s.replies ++ replies } := by
  rw [exec_unescape hfam] at h
  obtain ⟨-, -, rfl⟩ := runUx_eq_next.mp h
  exact ⟨_, _, rfl⟩

theorem exec_creation (hfam : familyOf i = .creation) (s : State) :
    exec i s =
      .next (giveReply (.instanceNumber s.decoders.length) { s with decoders := s.decoders ++ [Decoder.fresh] }) := by
  cases i
  case newDecoder => exact exec_newDecoder s
  all_goals cases hfam

/-! ## The frame of every instruction -/

/-- What an instruction that goes on did, by its family. -/
inductive Effect (i : Instr) (s : State) : State → Prop
  | receives {d : Nat} {dec : Decoder} {st : DecoderState} {rs : List Result} (hfam : familyOf i = .receive d)
      (hd : s.decoders[d]? = some dec) (hfit : AddressesFit rs) : Effect i s (putDecoder d dec st rs s)
  | operates {d : Nat} {dec : Decoder} {st : DecoderState} {rs : List Result} (r : Reply)
      (hfam : familyOf i = .decoder (some d)) (hd : s.decoders[d]? = some dec) (hfit : AddressesFit rs) :
      Effect i s (giveReply r (putDecoder d dec st rs s))
  | puts {octets : List Octet} (hfam : familyOf i = .transmit) (hesc : wellEscaped octets = true) :
      Effect i s (txPut octets s)
  | encodes {octets : List Octet} (hfam : familyOf i = .encoder) (hesc : wellEscaped octets = true) :
      Effect i s (giveReply (.octets octets) (txPut octets s))
  | unescapes (run : UxRun) (replies : List Reply) (hfam : familyOf i = .unescape) :
      Effect i s { s with ux := run, replies := s.replies ++ replies }
  | replies (r : Reply) (hi : RepliesOnly i) : Effect i s (giveReply r s)
  | creates (r : Reply) (hfam : familyOf i = .creation) :
      Effect i s (giveReply r { s with decoders := s.decoders ++ [Decoder.fresh] })

theorem exec_effect (h : exec i s = .next t) : Effect i s t := by
  have hreply : ∀ hi : RepliesOnly i, Effect i s t := fun hi => by
    obtain ⟨r, hr⟩ := exists_reply_of_exec hi h
    cases (hr s).symm.trans h
    exact .replies r hi
  cases hfam : familyOf i with
  | receive d =>
    obtain ⟨dec, st, rs, hd, hfit, hacts⟩ := receive_actsAs hfam h
    have ht := hacts s hd
    rw [List.append_nil] at ht
    cases ht.symm.trans h
    exact .receives hfam hd hfit
  | transmit =>
    obtain ⟨octets, hesc, rfl⟩ := exec_transmit hfam h
    exact .puts hfam hesc
  | unescape =>
    obtain ⟨run, replies, rfl⟩ := ux_of_exec_unescape hfam h
    exact .unescapes run replies hfam
  | escaper => exact hreply (.inl hfam)
  | fcsEngine => exact hreply (.inr (.inl hfam))
  | controlBuilder => exact hreply (.inr (.inr (.inl hfam)))
  | encoder =>
    obtain ⟨octets, hesc, hexec⟩ := exec_encoder hfam
    cases (hexec s).symm.trans h
    exact .encodes hfam hesc
  | decoder o =>
    cases o with
    | none => exact hreply (.inr (.inr (.inr hfam)))
    | some d =>
      cases hd : s.decoders[d]? with
      | none => cases (held_refuses_absent hfam hd).symm.trans h
      | some dec =>
        obtain ⟨st, rs, r, hfit, hacts⟩ := held_actsAs hfam dec
        cases (hacts s hd).symm.trans h
        exact .operates r hfam hd hfit
  | creation =>
    cases (exec_creation hfam s).symm.trans h
    exact .creates _ hfam

/-- Settles O57: by the effect of each family. -/
theorem instructionsChangeOnlyTheirOwn : Obligations.InstructionsChangeOnlyTheirOwn := by
  intro i s t h
  cases exec_effect h with
  | @receives d dec st rs hfam hd hfit =>
    have hother : ∀ e, instanceOf i ≠ some e → d ≠ e := fun e he hde => he (hde ▸ instanceOf_of_receive hfam)
    simp_all
  | @operates d dec st rs r hfam hd hfit =>
    have hother : ∀ e, instanceOf i ≠ some e → d ≠ e := fun e he hde => he (hde ▸ instanceOf_of_decoder hfam)
    simp_all
  | puts hfam | encodes hfam | unescapes _ _ hfam => simp [hfam]
  | replies r hi => obtain hfam | hfam | hfam | hfam := hi <;> simp [hfam]
  | creates r hfam =>
    have hold : ∀ e, e < s.decoders.length → (s.decoders ++ [Decoder.fresh])[e]? = s.decoders[e]? := fun e he =>
      List.getElem?_append_left he
    simp_all

/-! ## Instructions with operands that exist -/

theorem lt_of_operandsExist (h : operandsExist n i = true) (hi : instanceOf i = some d) : d < n := by
  have hinst := (Bool.and_eq_true_iff.mp h).1
  rw [hi] at hinst
  exact of_decide_eq_true hinst

theorem bits_of_operandsExist {sel : FrameTypeSelector} (h : operandsExist n (.ctrlBuild sel) = true) :
    ∃ bits, frameTypeBits hardware sel = some bits :=
  Option.isSome_iff_exists.mp h

theorem exists_decoder_of_operandsExist (h : operandsExist s.decoders.length i = true) (hi : instanceOf i = some d) :
    ∃ dec, s.decoders[d]? = some dec :=
  ⟨_, List.getElem?_eq_getElem (lt_of_operandsExist h hi)⟩

/-- A row that is well formed and in force is the one its own octet selects. -/
theorem eq_rxRow_of_selected (hfam : familyOf i = .receive d) (hd : s.decoders[d]? = some dec)
    (hwf : i.wellFormed = true)
    (hf : i.inForce (viewOf s) = true) : ∃ b, rxRow d b dec.state = i := by
  obtain ⟨b, hb⟩ : ∃ b, encode i = .octet (.rx d) b := by
    cases i <;> cases hfam <;> exact ⟨_, rfl⟩
  have hdecode := decode_encode_receive hfam hwf hf
  rw [hb, decode_rx_state hd] at hdecode
  exact ⟨b, Except.ok.inj hdecode⟩

theorem eq_txRow_of_selected (hfam : familyOf i = .transmit) (hwf : i.wellFormed = true) : ∃ b, txRow b = i := by
  obtain ⟨b, hb⟩ : ∃ b, encode i = .octet .tx b := by
    cases i <;> cases hfam <;> exact ⟨_, rfl⟩
  have hdecode := decode_encode_transmit (v := viewOf State.reset) hfam hwf
  rw [hb, decode_tx_eq] at hdecode
  exact ⟨b, Except.ok.inj hdecode⟩

theorem eq_uxRow_of_selected (hfam : familyOf i = .unescape) (hwf : i.wellFormed = true)
    (hf : i.inForce (viewOf s) = true) :
    i = .uxEEnd ∧ s.ux.format = .escaped ∨ ∃ b, uxRow b s.ux.format = i := by
  have hdecode := decode_encode_unescape hfam hwf hf
  cases i
  case uxEEnd => exact .inl ⟨rfl, beq_iff_eq.mp hf⟩
  case uxPEscape | uxPCopy | uxEEscaped5D | uxEEscaped5E | uxEBad =>
    rw [encode, decode_ux_eq] at hdecode
    exact .inr ⟨_, Except.ok.inj hdecode⟩
  all_goals cases hfam

theorem exec_uxRow_next (b : Octet) (s : State) : ∃ t, exec (uxRow b s.ux.format) s = .next t := by
  cases h : uxNext s.ux b with
  | none => exact ⟨_, exec_uxRow_bad h⟩
  | some run => exact ⟨_, exec_uxRow h⟩

/-- Settles O16: a row is the one its octet selects, and completes; an operation completes with its operands. -/
theorem selectedInstructionsComplete : Obligations.SelectedInstructionsComplete := by
  intro i s hwf hf hops
  have hreply : ∀ hi : RepliesOnly i, ∃ t, exec i s = .next t := fun hi => by
    obtain ⟨r, hr⟩ := exists_reply hi fun sel hsel => bits_of_operandsExist (hsel ▸ hops)
    exact ⟨_, hr s⟩
  cases hfam : familyOf i with
  | receive d =>
    obtain ⟨dec, hd⟩ := exists_decoder_of_operandsExist hops (instanceOf_of_receive hfam)
    obtain ⟨b, rfl⟩ := eq_rxRow_of_selected hfam hd hwf hf
    obtain ⟨st, rs, hstep⟩ := stepDecoder_unbounded hardware_accCap dec.state b
    exact ⟨_, exec_rxRow hd hstep⟩
  | transmit =>
    obtain ⟨b, rfl⟩ := eq_txRow_of_selected hfam hwf
    exact ⟨_, exec_txRow b s⟩
  | unescape =>
    obtain ⟨rfl, hformat⟩ | ⟨b, rfl⟩ := eq_uxRow_of_selected hfam hwf hf
    · exact ⟨_, exec_uxEEnd hformat⟩
    · exact exec_uxRow_next b s
  | escaper => exact hreply (.inl hfam)
  | fcsEngine => exact hreply (.inr (.inl hfam))
  | controlBuilder => exact hreply (.inr (.inr (.inl hfam)))
  | encoder =>
    obtain ⟨octets, -, hexec⟩ := exec_encoder hfam
    exact ⟨_, hexec s⟩
  | decoder o =>
    cases o with
    | none => exact hreply (.inr (.inr (.inr hfam)))
    | some d =>
      obtain ⟨dec, hd⟩ := exists_decoder_of_operandsExist hops (instanceOf_of_decoder hfam)
      obtain ⟨st, rs, r, -, hacts⟩ := held_actsAs hfam dec
      exact ⟨_, hacts s hd⟩
  | creation => exact ⟨_, exec_creation hfam s⟩

end Sys2Proof.Machine
end

section
/-! PROOFS. The whole machine: what a step does to the streams and the invariant, runs that never stop
(44_frame_decoder R105, 60_exceptions R124), and interleaved streams (20_memory R36, R38; 10_state R20, R21). -/

namespace Sys2Proof.Machine

variable {s t : State} {d n m : Nat} {b : Octet} {i : Instr} {dec : Decoder} {st : DecoderState} {rs : List Result}
  {r : Request} {rest : List Request}

/-! ## What a step can do -/

/-- A step that goes on: it had nothing to do, it ended an `ESC.DEC`, or it ran an instruction. -/
theorem step_cases (h : step s = .next t) :
    s.requests = [] ∧ t = s ∨
      ∃ r rest, s.requests = r :: rest ∧
        (t = finishUx { s with requests := rest } ∨ ∃ i, Effect i { s with requests := rest } t) := by
  cases hreq : s.requests with
  | nil =>
    rw [step_of_no_request hreq] at h
    cases h
    exact .inl ⟨rfl, rfl⟩
  | cons r rest =>
    refine .inr ⟨r, rest, rfl, ?_⟩
    cases hdecode : decode (viewOf s) r with
    | ok i =>
      rw [step_of_decode hreq hdecode] at h
      exact .inr ⟨i, exec_effect h⟩
    | error e =>
      rw [step_of_reject hreq hdecode] at h
      cases e <;> cases h
      exact .inl rfl

/-! ## Streams (20_memory R36) -/

/-- Every decoder is still there, and what stood on its stream still does. -/
def KeepsResults (s t : State) : Prop :=
  ∀ (e : Nat) (dec : Decoder), s.decoders[e]? = some dec →
    ∃ dec', t.decoders[e]? = some dec' ∧ dec.results <+: dec'.results

theorem keepsResults_of_decoders (h : t.decoders = s.decoders) : KeepsResults s t := fun e dec he =>
  ⟨dec, by rw [h, he], List.prefix_rfl⟩

theorem keepsResults_set (hd : s.decoders[d]? = some dec) (ht : t.decoders = s.decoders.set d ⟨st, dec.results ++ rs⟩) :
    KeepsResults s t := by
  intro e dec' he
  rw [ht]
  by_cases hde : d = e
  · subst hde
    cases hd.symm.trans he
    obtain ⟨hlt, -⟩ := List.getElem?_eq_some_iff.mp hd
    exact ⟨_, List.getElem?_set_self hlt, List.prefix_append _ _⟩
  · exact ⟨dec', by rw [List.getElem?_set_ne hde, he], List.prefix_rfl⟩

theorem keepsResults_append {ds : List Decoder} (ht : t.decoders = s.decoders ++ ds) : KeepsResults s t := by
  intro e dec he
  obtain ⟨hlt, -⟩ := List.getElem?_eq_some_iff.mp he
  exact ⟨dec, by rw [ht, List.getElem?_append_left hlt, he], List.prefix_rfl⟩

/-- What an instruction that goes on leaves of the streams. -/
theorem Effect.streams (h : Effect i s t) :
    t.requests = s.requests ∧ s.tx <+: t.tx ∧ s.replies <+: t.replies ∧ KeepsResults s t := by
  cases h with
  | receives _ hd => exact ⟨rfl, List.prefix_rfl, List.prefix_rfl, keepsResults_set hd rfl⟩
  | operates r _ hd => exact ⟨rfl, List.prefix_rfl, List.prefix_append _ _, keepsResults_set hd rfl⟩
  | puts => exact ⟨rfl, List.prefix_append _ _, List.prefix_rfl, keepsResults_of_decoders rfl⟩
  | encodes => exact ⟨rfl, List.prefix_append _ _, List.prefix_append _ _, keepsResults_of_decoders rfl⟩
  | unescapes | replies => exact ⟨rfl, List.prefix_rfl, List.prefix_append _ _, keepsResults_of_decoders rfl⟩
  | creates => exact ⟨rfl, List.prefix_rfl, List.prefix_append _ _, keepsResults_append rfl⟩

/-- Settles O56: the request taken, and then what its instruction leaves of the streams. -/
theorem streamsOnlyGrow : Obligations.StreamsOnlyGrow := by
  intro s t h
  obtain ⟨hreq, rfl⟩ | ⟨r, rest, hreq, rfl | ⟨i, heffect⟩⟩ := step_cases h
  · exact ⟨by rw [hreq]; rfl, List.prefix_rfl, List.prefix_rfl, keepsResults_of_decoders rfl⟩
  · exact ⟨by rw [hreq]; rfl, List.prefix_rfl, List.prefix_append _ _, keepsResults_of_decoders rfl⟩
  · obtain ⟨hrest, hstreams⟩ := heffect.streams
    exact ⟨by rw [hreq, hrest]; rfl, hstreams⟩

/-! ## The invariant -/

/-- Settles O53: the one decoder at reset is fresh, and nothing stands on a stream. -/
theorem resetStateIsSearching : Obligations.ResetStateIsSearching := by
  have hfresh : ∀ dec ∈ State.reset.decoders, dec = Decoder.fresh := fun dec hdec => by simpa using hdec
  refine ⟨fun dec hdec => ?_, rfl, fun r hr => by simp at hr, fun dec hdec f hf => ?_⟩
  · rw [hfresh dec hdec]
    exact ⟨rfl, rfl⟩
  · rw [hfresh dec hdec] at hf
    cases hf

theorem operandsExist_mono (hnm : n ≤ m) (h : operandsExist n i = true) : operandsExist m i = true := by
  obtain ⟨hinst, hsel⟩ := Bool.and_eq_true_iff.mp h
  refine Bool.and_eq_true_iff.mpr ⟨?_, hsel⟩
  cases hi : instanceOf i with
  | none => rfl
  | some d => exact decide_eq_true (Nat.lt_of_lt_of_le (lt_of_operandsExist h hi) hnm)

theorem servable_mono (hnm : n ≤ m) (h : servable n r = true) : servable m r = true := by
  cases r with
  | octet p b =>
    cases p with
    | rx d => exact decide_eq_true (Nat.lt_of_lt_of_le (of_decide_eq_true h) hnm)
    | tx | ux => rfl
  | endOfInput => rfl
  | call o => exact operandsExist_mono hnm h

/-- The decoders' part of the invariant: every one has delivered only addresses of the hardware's width. -/
def AllFit (ds : List Decoder) : Prop := ∀ dec ∈ ds, AddressesFit dec.results

theorem AllFit.set {ds : List Decoder} (h : AllFit ds) (hd : ds[d]? = some dec) (hfit : AddressesFit rs) :
    AllFit (ds.set d ⟨st, dec.results ++ rs⟩) := by
  intro dec' hdec'
  obtain hold | rfl := List.mem_or_eq_of_mem_set hdec'
  · exact h dec' hold
  · exact (h dec (List.mem_of_getElem? hd)).append hfit

theorem AllFit.append_fresh {ds : List Decoder} (h : AllFit ds) : AllFit (ds ++ [Decoder.fresh]) := by
  intro dec hdec
  obtain hold | hnew := List.mem_append.mp hdec
  · exact h dec hold
  · rw [List.mem_singleton.mp hnew]
    exact addressesFit_nil

theorem State.Inv.take (h : s.Inv) (hreq : s.requests = r :: rest) : State.Inv { s with requests := rest } :=
  ⟨h.txEscaped, fun r' hr' => h.requestsServable r' (by rw [hreq]; exact List.mem_cons_of_mem r hr'),
    h.deliveredAddress⟩

/-- What keeps the invariant: no request more, no decoder less, and the same of what is put and delivered. -/
theorem State.Inv.of_changes (h : s.Inv) (hreq : t.requests = s.requests) (hlen : s.decoders.length ≤ t.decoders.length)
    (htx : wellEscaped t.tx = true) (hfit : AllFit t.decoders) : t.Inv :=
  ⟨htx, fun r hr => servable_mono hlen (h.requestsServable r (hreq ▸ hr)), hfit⟩

theorem Effect.inv (heffect : Effect i s t) (h : s.Inv) : t.Inv := by
  have hfit : AllFit s.decoders := h.deliveredAddress
  cases heffect with
  | receives _ hd hnew | operates _ _ hd hnew =>
    exact h.of_changes rfl (List.length_set ..).ge h.txEscaped (hfit.set hd hnew)
  | puts _ hesc | encodes _ hesc => exact h.of_changes rfl le_rfl (wellEscaped_append h.txEscaped hesc) hfit
  | unescapes | replies => exact h.of_changes rfl le_rfl h.txEscaped hfit
  | creates =>
    exact h.of_changes rfl (by rw [giveReply_decoders, List.length_append]; exact Nat.le_add_right _ _) h.txEscaped
      hfit.append_fresh

/-- Settles O54: taking the request keeps the invariant, and so does the effect of its instruction. -/
theorem stepKeepsInvariant : Obligations.StepKeepsInvariant := by
  intro s t h hstep
  obtain ⟨-, rfl⟩ | ⟨r, rest, hreq, rfl | ⟨i, heffect⟩⟩ := step_cases hstep
  · exact h
  · have htaken := h.take hreq
    exact htaken.of_changes rfl le_rfl htaken.txEscaped htaken.deliveredAddress
  · exact heffect.inv (h.take hreq)

/-! ## Runs that go on for ever -/

theorem operandsExist_of_servable_encode (h : servable n (encode i) = true) : operandsExist n i = true := by
  cases i
  case rxSFlag | rxSOther | rxFFlagEmpty | rxFFlagEnd | rxFEscape | rxFLiteral | rxEEscaped5D | rxEEscaped5E |
      rxEFlag | rxEOther =>
    exact (Bool.and_true _).trans h
  case txFlag | txEscape | txLiteral | uxPEscape | uxPCopy | uxEEscaped5D | uxEEscaped5E | uxEBad | uxEEnd => rfl
  all_goals exact h

/-- With requests that name what exists the next step goes on. -/
theorem step_goes_on (h : s.Inv) : ∃ t, step s = .next t := by
  cases hreq : s.requests with
  | nil => exact ⟨s, step_of_no_request hreq⟩
  | cons r rest =>
    have hserv : servable s.decoders.length r = true := h.requestsServable r (by rw [hreq]; exact List.mem_cons_self)
    cases hdecode : decode (viewOf s) r with
    | ok i =>
      obtain ⟨hwf, hforce, rfl⟩ := decodedInstructionEncodesBack _ _ _ hdecode
      rw [step_of_decode hreq hdecode]
      have hops := operandsExist_of_servable_encode hserv
      exact selectedInstructionsComplete i { s with requests := rest } hwf hforce hops
    | error e =>
      rw [step_of_reject hreq hdecode]
      obtain ⟨d, b, rfl, hd, -⟩ | ⟨-, -, rfl⟩ := decode_eq_error hdecode
      · have hlt : d < s.decoders.length := of_decide_eq_true hserv
        simp [hlt] at hd
      · exact ⟨_, rfl⟩

/-- Settles O55: every step goes on, and keeps what the next one needs. -/
theorem invariantRunsForEver : Obligations.InvariantRunsForEver := by
  intro s h k
  induction k generalizing s with
  | zero => exact ⟨s, rfl⟩
  | succ k ih =>
    obtain ⟨t, hstep⟩ := step_goes_on h
    rw [core_run_succ hstep]
    exact ih t (stepKeepsInvariant s t h hstep)

/-! ## Interleaved streams (20_memory R38) -/

theorem step_rx (hreq : s.requests = .octet (.rx d) b :: rest) (hd : s.decoders[d]? = some dec)
    (hstep : stepDecoder hardware dec.state b = .ok (st, rs)) :
    step s = .next (putDecoder d dec st rs { s with requests := rest }) := by
  rw [step_of_decode hreq (decode_rx_state hd b)]
  exact exec_rxRow (s := { s with requests := rest }) hd hstep

theorem rxOctet_self (d : Nat) (b : Octet) : rxOctet d (.octet (.rx d) b) = some b := if_pos rfl

theorem rxOctet_other {e : Nat} (hde : d ≠ e) (b : Octet) : rxOctet e (.octet (.rx d) b) = none := if_neg hde

/-- Each decoder of `ds` is the one of `s` fed its own octets of the requests offered. -/
def FedOwnStream (s : State) (offered : List Request) (ds : List Decoder) : Prop :=
  ∀ (e : Nat) (dec : Decoder), s.decoders[e]? = some dec →
    ∃ st rs, feedDecoder hardware dec.state (offered.filterMap (rxOctet e)) = .ok (st, rs) ∧
      ds[e]? = some ⟨st, dec.results ++ rs⟩

theorem fedOwnStream_nil (s : State) : FedOwnStream s [] s.decoders := fun e dec he =>
  ⟨dec.state, [], rfl, by rw [List.append_nil, he]⟩

/-- An octet for one decoder changes the stream of that decoder only. -/
theorem FedOwnStream.cons {offered : List Request} {ds : List Decoder} (hd : s.decoders[d]? = some dec)
    (hstep : stepDecoder hardware dec.state b = .ok (st, rs))
    (h : FedOwnStream (putDecoder d dec st rs { s with requests := rest }) offered ds) :
    FedOwnStream s (.octet (.rx d) b :: offered) ds := by
  intro e dec' he
  by_cases hde : d = e
  · subst hde
    cases hd.symm.trans he
    obtain ⟨hlt, -⟩ := List.getElem?_eq_some_iff.mp hd
    obtain ⟨st', rs', hfeed, hds⟩ := h d ⟨st, dec.results ++ rs⟩ (List.getElem?_set_self hlt)
    refine ⟨st', rs ++ rs', ?_, by rw [hds, List.append_assoc]⟩
    rw [List.filterMap_cons_some (rxOctet_self d b)]
    exact feedDecoder_cons_eq_ok.mpr ⟨st, rs, rs', hstep, hfeed, rfl⟩
  · simp only [List.filterMap_cons_none (rxOctet_other hde b)]
    exact h e dec' ((List.getElem?_set_ne hde).trans he)

/-- Settles O60: by induction on the requests offered, one step on one decoder at a time. -/
theorem interleavedStreamsDecodeIndependently : Obligations.InterleavedStreamsDecodeIndependently := by
  intro s offered rest hreq hoffered
  induction offered generalizing s with
  | nil =>
    obtain rfl : s.requests = rest := hreq
    exact ⟨s.decoders, rfl, rfl, fedOwnStream_nil s⟩
  | cons r offered ih =>
    obtain ⟨d, b, rfl, hlt⟩ := hoffered r List.mem_cons_self
    have hd := List.getElem?_eq_getElem hlt
    obtain ⟨st, rs, hstep⟩ := stepDecoder_unbounded hardware_accCap s.decoders[d].state b
    have hlater : ∀ r ∈ offered, ∃ e b, r = .octet (.rx e) b ∧
        e < (s.decoders.set d ⟨st, s.decoders[d].results ++ rs⟩).length := fun r hr => by
      rw [List.length_set]
      exact hoffered r (List.mem_cons_of_mem _ hr)
    obtain ⟨ds, hrun, hlen, hfed⟩ :=
      ih (putDecoder d s.decoders[d] st rs { s with requests := offered ++ rest }) rfl hlater
    refine ⟨ds, ?_, ?_, FedOwnStream.cons hd hstep hfed⟩
    · exact (core_run_succ (step_rx hreq hd hstep)).trans hrun
    · rw [hlen, putDecoder_decoders, List.length_set]

end Sys2Proof.Machine
end
